-- ==== Sys2Proof/Word.lean ====
section
/-! DEFINITION. The value types of the hardware: bytes, buffers and the packed word of the opcode table. -/

namespace Sys2Proof

/-- A byte: an unsigned 8-bit value (R9). Levels, intensities and selectors are bytes (R8 `LEVEL_BITS`, `BYTE_BITS`). -/
abbrev Byte := BitVec 8

/-- A command buffer: a finite sequence of bytes of any length, offset 0 first (R10, R40). -/
abbrev Buffer := List Byte

/-- The packed word `W` of R62, a notation of the opcode table and no quantity of the hardware. -/
abbrev PackedWord := BitVec 16

end Sys2Proof
end

