-- ==== Sys2Proof/Syntax.lean ====
section
/-! DEFINITION. The names of the hardware (channels, directions, commands, events), its instructions, one
constructor per row of spec/opcode_table.json, and the lines of the spec's assembler syntax. -/

namespace Sys2Proof

/-- The three intensity channels, in the spec's order; they have no numbers (R11, R42). -/
inductive Channel where
  | indicator
  | directionA
  | directionB
deriving DecidableEq, Repr, Inhabited

/-- The two actuation directions (R11, R14). -/
inductive Direction where
  | a
  | b
deriving DecidableEq, Repr, Inhabited

/-- What the decoder yields for a valid buffer: an intensity and a direction flag (R14 "Command", R94). -/
structure Command where
  intensity : Byte
  dir : Direction
deriving DecidableEq, Repr

/-- The one error of the hardware, with no code and no payload (R120, D5). -/
inductive CommandError where
  | malformedCommand
deriving DecidableEq, Repr

/-- The input events the link layer delivers (R13, R126). -/
inductive Event where
  | write (b : Buffer)
  | connect
  | disconnect
deriving DecidableEq, Repr, Inhabited

/-- The five formats of R60. -/
inductive Format where
  | write2
  | write1
  | write0
  | link
  | driver
deriving DecidableEq, Repr

/-- The instructions: one constructor per row of spec/opcode_table.json. A constructor of a `Write` row holds
every byte of the buffer it stands for, the ignored ones too. -/
inductive Instr where
  /-- `DRIVE_A`: the buffer `[n, 1] ++ tail` (R98). -/
  | driveA (intensity : Byte) (tail : List Byte)
  /-- `DRIVE_B`: the buffer `[n, s] ++ tail` with `s ≠ 1` (R99). -/
  | driveB (intensity sel : Byte) (tail : List Byte)
  /-- `MALFORMED_LEN1`: a buffer of one byte (R65, R120). -/
  | malformedLen1 (value : Byte)
  /-- `MALFORMED_LEN0`: the empty buffer (R65, R120). -/
  | malformedLen0
  /-- `CONNECT` (R110). -/
  | connect
  /-- `DISCONNECT` (R111). -/
  | disconnect
  /-- `SET_INTENSITY`, issued by the Command Interpreter and never by a sender (R68, R80). -/
  | setIntensity (channel : Channel) (level : Byte)
deriving DecidableEq, Repr

/-- The format of an instruction's row in the opcode table (R60, R73). -/
def Instr.format : Instr → Format
  | .driveA _ _ => .write2
  | .driveB _ _ _ => .write2
  | .malformedLen1 _ => .write1
  | .malformedLen0 => .write0
  | .connect => .link
  | .disconnect => .link
  | .setIntensity _ _ => .driver

/-- The mnemonic of an instruction's row in the opcode table (R73). -/
def Instr.mnemonic : Instr → String
  | .driveA _ _ => "DRIVE_A"
  | .driveB _ _ _ => "DRIVE_B"
  | .malformedLen1 _ => "MALFORMED_LEN1"
  | .malformedLen0 => "MALFORMED_LEN0"
  | .connect => "CONNECT"
  | .disconnect => "DISCONNECT"
  | .setIntensity _ _ => "SET_INTENSITY"

/-- One line of the assembler syntax of R71, with the two pseudo-instructions of R72. -/
inductive Line where
  /-- `DRIVE_A n`. -/
  | driveA (n : Byte)
  /-- `DRIVE_B n`, the canonical form with selector 0. -/
  | driveB (n : Byte)
  /-- `DRIVE_B n, s`. -/
  | driveBSel (n s : Byte)
  /-- `RAW [v0, v1, ...]`. -/
  | raw (b : Buffer)
  /-- `CONNECT`. -/
  | connect
  /-- `DISCONNECT`. -/
  | disconnect
  /-- `STOP`, that is `DRIVE_B 0`. -/
  | stop
  /-- `STOP_A`, that is `DRIVE_A 0`. -/
  | stopA
deriving DecidableEq, Repr

end Sys2Proof
end

