-- ==== Sys2Proof/Config.lean ====
section
/-! DEFINITION. The parameters of R8: the fixed ones with their values, the open ones as constants without a
body, which no proof can evaluate. No rule of the CORE depends on an open one. -/

namespace Sys2Proof.Config

/-- `N_CHANNELS` (R8). -/
def nChannels : Nat := 3

/-- `LEVEL_BITS`, the width of a level and of an intensity (R8). -/
def levelBits : Nat := 8

/-- `BYTE_BITS` (R8). -/
def byteBits : Nat := 8

/-- `RES_BITS`, the resolution of the signal generators, equal to `LEVEL_BITS` (R8, R87). -/
def resBits : Nat := 8

/-- `MIN_CMD_LEN`: the least length of a buffer that is a command (R8, R91). -/
def minCmdLen : Nat := 2

/-- `DIR_A_CODE`: the one selector that selects Direction A (R8, R64). -/
def dirACode : Byte := 1

/-- `STOP_ON_DISCONNECT` is false: R111 is fixed, and U6 gives the other value no meaning (R8, R114). -/
def stopOnDisconnect : Bool := false

/-- `STOP_ON_MALFORMED` is false: R122 is fixed, and U6 gives the other value no meaning (R8, C1). -/
def stopOnMalformed : Bool := false

/-- `MAX_WRITE_LEN`, open (R8, D3). The model takes buffers of every length and reads this nowhere. -/
opaque maxWriteLen : Nat

/-- `PIN[c]`, open and constant for a run (R8, R28, D16). -/
opaque pin : Channel → Nat

/-- `SIGCH[c]`, open and constant for a run (R8, R28, D16). -/
opaque sigch : Channel → Nat

/-- `CARRIER_HZ` of a deployment other than the reference one, open (R8, D15). -/
opaque otherCarrierHz : Nat

/-- `CARRIER_HZ`: 1000 Hz in the reference deployment, otherwise open (R8, R28, D15). -/
def carrierHz (referenceDeployment : Bool) : Nat :=
  if referenceDeployment then 1000 else otherCarrierHz

/-- FREE VALUE: the `k`-th event the link layer delivers of its own accord. The environment chooses the events and
their bytes (R13, R32, U10), so nothing constrains them (log 2; safe). -/
opaque arrival : Nat → Event

/-- What a signal generator produces: the two points the spec names, or some fraction of the carrier period. DESIGN
CHOICE on the form (log 15; safe). -/
inductive Duty where
  | off
  | full
  | fraction (ofPeriod : Rat)
deriving DecidableEq, Repr, Inhabited

/-- FREE VALUE: the duty of a level other than 0 and 255, which the source does not give (R22, D14, U9).
Neither linearity nor monotonicity may be assumed (log 15; safe). -/
opaque midDuty : Byte → Duty

/-- `duty_of_level`, constrained at 0 ("off") and 255 ("full") only (R22, R87, D14). -/
def dutyOfLevel (v : Byte) : Duty :=
  if v = 0 then .off else if v = 255 then .full else midDuty v

end Sys2Proof.Config
end

