-- ==== Sys2Proof/WellFormed.lean ====
section
/-! DEFINITION. Which terms of the syntax are instructions the encoding admits. -/

namespace Sys2Proof

/-- An instruction is well formed when its row's encoding admits its operands. The one check is that a `DRIVE_B`
selector is not the code of Direction A (R66, R99). Tails have any length (R69, D3). -/
def Instr.wf : Instr → Bool
  | .driveA _ _ => true
  | .driveB _ sel _ => sel != Config.dirACode
  | .malformedLen1 _ => true
  | .malformedLen0 => true
  | .connect => true
  | .disconnect => true
  | .setIntensity _ _ => true

/-- A line is well formed when R71 admits it: `DRIVE_B n, s` has `s ≠ 1`. -/
def Line.wf : Line → Bool
  | .driveBSel _ s => s != Config.dirACode
  | .driveA _ => true
  | .driveB _ => true
  | .raw _ => true
  | .connect => true
  | .disconnect => true
  | .stop => true
  | .stopA => true

end Sys2Proof
end

