-- ==== Sys2Proof/Decode.lean ====
section
/-! DEFINITION. The decoder and the encoder, the packed word and the rows of the opcode table, and the
assembler and disassembler of the spec's line syntax. -/

namespace Sys2Proof

/-- `MemRead(k, 1)`: the byte at offset `k` of the buffer, defined only for `k < len(b)` (R41). -/
def memRead (b : Buffer) (k : Nat) : Option Byte := b[k]?

/-- The direction operand: equality of the whole selector byte with 1 (R64, R93). -/
def directionOf (sel : Byte) : Direction :=
  if sel = Config.dirACode then .a else .b

/-- Steps 1, 2 and 4 of R90: the decoder of R94, which yields a Command or rejects by name. The last case is not
reached, since the length test comes first (R41, R91). -/
def decodeCommand (b : Buffer) : Except CommandError Command :=
  if b.length < Config.minCmdLen then .error .malformedCommand
  else
    match memRead b 0, memRead b 1 with
    | some n, some s => .ok ⟨n, directionOf s⟩
    | _, _ => .error .malformedCommand

/-- The opcode map from buffers to instructions (R60, R65, R66, R69). It is total: every buffer has a row. -/
def decodeBuffer : Buffer → Instr
  | [] => .malformedLen0
  | [v] => .malformedLen1 v
  | n :: s :: tail => if s = Config.dirACode then .driveA n tail else .driveB n s tail

/-- The instruction an input event stands for; the link events carry no bytes (R68). -/
def decodeEvent : Event → Instr
  | .write b => decodeBuffer b
  | .connect => .connect
  | .disconnect => .disconnect

/-- The event that carries an instruction. `SET_INTENSITY` has none: a sender cannot issue it (R68, R131). -/
def encode : Instr → Option Event
  | .driveA n tail => some (.write (n :: Config.dirACode :: tail))
  | .driveB n s tail => some (.write (n :: s :: tail))
  | .malformedLen1 v => some (.write [v])
  | .malformedLen0 => some (.write [])
  | .connect => some .connect
  | .disconnect => some .disconnect
  | .setIntensity _ _ => none

/-- The format of an input event, which the length of its buffer selects (R60). -/
def formatOfEvent : Event → Format
  | .write [] => .write0
  | .write [_] => .write1
  | .write (_ :: _ :: _) => .write2
  | .connect => .link
  | .disconnect => .link

/-! ## The packed word and the rows of the opcode table -/

/-- `W` with `W[7:0] = b[0]` and `W[15:8] = b[1]` (R62). -/
def packWord (b0 b1 : Byte) : PackedWord := (b1.setWidth 16 <<< 8) ||| b0.setWidth 16

/-- `intensity = W[7:0]` (R62). -/
def wordIntensity (w : PackedWord) : Byte := w.extractLsb' 0 8

/-- `sel = W[15:8]` (R62). -/
def wordSel (w : PackedWord) : Byte := w.extractLsb' 8 8

/-- A mask and the value the masked word has. -/
structure Pattern where
  mask : PackedWord
  value : PackedWord
deriving DecidableEq, Repr

/-- A word fits a pattern. -/
def Pattern.fits (p : Pattern) (w : PackedWord) : Bool := w &&& p.mask == p.value

/-- The pattern of the `DRIVE_A` row (R66). -/
def driveAPattern : Pattern := ⟨0xFF00, 0x0100⟩

/-- The pattern of the `DRIVE_B` row, which every word fits: it is tried after `DRIVE_A` (R66). -/
def driveBPattern : Pattern := ⟨0x0000, 0x0000⟩

/-- The eight disjoint patterns of `sel ≠ 1` (R66). -/
def driveBDisjointPatterns : List Pattern :=
  [⟨0x0100, 0x0000⟩, ⟨0x8100, 0x8100⟩, ⟨0xC100, 0x4100⟩, ⟨0xE100, 0x2100⟩,
   ⟨0xF100, 0x1100⟩, ⟨0xF900, 0x0900⟩, ⟨0xFD00, 0x0500⟩, ⟨0xFF00, 0x0300⟩]

/-- The `WRITE2` rows of the opcode table in rising priority (R66, R73). -/
def write2Rows : List (String × Pattern) :=
  [("DRIVE_A", driveAPattern), ("DRIVE_B", driveBPattern)]

/-- The first row a word fits (R73 `priority`). -/
def selectRow (w : PackedWord) : Option String :=
  (write2Rows.find? fun row => row.2.fits w).map Prod.fst

/-! ## The line syntax -/

/-- The event a line denotes (R71, R72). -/
def assemble : Line → Event
  | .driveA n => .write [n, 1]
  | .driveB n => .write [n, 0]
  | .driveBSel n s => .write [n, s]
  | .raw b => .write b
  | .connect => .connect
  | .disconnect => .disconnect
  | .stop => .write [0, 0]
  | .stopA => .write [0, 1]

/-- The line a disassembler prints for an event (R71). -/
def disassemble : Event → Line
  | .write [n, s] => if s = 1 then .driveA n else if s = 0 then .driveB n else .driveBSel n s
  | .write b => .raw b
  | .connect => .connect
  | .disconnect => .disconnect

/-- The bytes of a `RAW` line in decimal, between commas (R71). -/
def bytesText : List Byte → String
  | [] => ""
  | [v] => toString v.toNat
  | v :: rest => toString v.toNat ++ ", " ++ bytesText rest

/-- A line as text (R71). DESIGN CHOICE: the spacing (log 20; safe). -/
def Line.text : Line → String
  | .driveA n => "DRIVE_A " ++ toString n.toNat
  | .driveB n => "DRIVE_B " ++ toString n.toNat
  | .driveBSel n s => "DRIVE_B " ++ toString n.toNat ++ ", " ++ toString s.toNat
  | .raw b => "RAW [" ++ bytesText b ++ "]"
  | .connect => "CONNECT"
  | .disconnect => "DISCONNECT"
  | .stop => "STOP"
  | .stopA => "STOP_A"

/-! ## The words of the opcode table -/

/-- The low `k` bytes of a number, least significant first: offset 0 is `W[7:0]` (R62). -/
def bytesOf : Nat → Nat → List Byte
  | 0, _ => []
  | k + 1, w => BitVec.ofNat 8 w :: bytesOf k (w / 256)

/-- The buffer whose bits are the low `nbits` bits of `w`, in whole bytes. DESIGN CHOICE (log 13; safe). -/
def wordBuffer (nbits w : Nat) : Buffer := bytesOf ((nbits + 7) / 8) w

/-- The instruction the decoder reads from a buffer whose bits are `w`. It refuses none (R67, R94). -/
def decodeTableWord (nbits w : Nat) : Option Instr := some (decodeBuffer (wordBuffer nbits w))

end Sys2Proof
end

