-- ==== Sys2Proof/Machine/State.lean ====
section
/-! DEFINITION. The state of the CORE, the output events it emits, the reasons a step can stop, and the state
after reset. -/

namespace Sys2Proof.Machine

/-- The level triple: the contents of the three level registers (R11, R20). -/
structure Levels where
  /-- `x[Indicator]`. -/
  indicator : Byte
  /-- `x[DirectionA]`. -/
  dirA : Byte
  /-- `x[DirectionB]`. -/
  dirB : Byte
deriving DecidableEq, Repr

/-- The sequencing state: Idle, or Applying with the number of writes already performed (R24). -/
inductive Phase where
  | idle
  | applying (k : Fin 3)
deriving DecidableEq, Repr

/-- The output events of the CORE. -/
inductive OutEvent where
  /-- One driver write and the level triple on the outputs right after it (R29, R97). -/
  | wrote (channel : Channel) (level : Byte) (after : Levels)
  /-- One report to the diagnostic sink (R123). -/
  | reported (error : CommandError)
deriving DecidableEq, Repr

/-- The machine's state. DESIGN CHOICE: `inbox`, `later` and `out` are the model's own fields (log 2, log 4;
safe). -/
structure State where
  /-- The three level registers (R20). -/
  levels : Levels
  /-- `phase` (R24). -/
  phase : Phase
  /-- `cmd_i`, the latched intensity (R25). -/
  cmdI : Byte
  /-- `cmd_dir`, the latched direction (R25). -/
  cmdDir : Direction
  /-- The events the link layer has yet to deliver, first to be delivered first (R13, R32). -/
  inbox : List Event
  /-- What the link layer delivers after the inbox: nothing (a finite run), or without end the events
  `Config.arrival k`, `Config.arrival (k + 1)`, ... (an infinite run) (R13, R32). -/
  later : Option Nat
  /-- The output events so far, oldest first; nothing reads it (R29, R123). -/
  out : List OutEvent
deriving DecidableEq, Repr

/-- The reasons the machine stops. -/
inductive Fault where
  /-- A `Write` row executed while `phase ≠ Idle`. The source leaves it undefined and the spec gives it no step
  (R148, U3, D10). Raised by the meanings of the four `Write` rows; `step` never raises it, since it takes an event
  in Idle only. DEDUCED (log 7). UNSAFE for a claim about deliveries that overlap: the model has no run that holds one. -/
  | overlappingWrite
deriving DecidableEq, Repr

/-- The reasons the model gives no meaning. -/
inductive Refusal where
  /-- An instruction whose meaning is not written. No arm of `exec` raises it. Safe. -/
  | notModelled (mnemonic : String)
deriving DecidableEq, Repr

/-- The state after power-on and the init collaborator's work (R33, R142): levels 0, Idle, nothing pending, no
report. DESIGN CHOICE: the values of `cmdI` and `cmdDir`, which R33 leaves unspecified (log 5; unsafe), and
that the link layer's events begin with number 0 (log 2; safe). -/
def State.reset : State where
  levels := ⟨0, 0, 0⟩
  phase := .idle
  cmdI := 0
  cmdDir := .a
  inbox := []
  later := some 0
  out := []

end Sys2Proof.Machine
end

