-- ==== Sys2Proof/Machine/Operands.lean ====
section
/-! DEFINITION. The operands the Command Interpreter computes: the two direction levels, and the channel and
level of each of the three writes of a command. The hardware has no flags (R27), so there is no Flags file. -/

namespace Sys2Proof.Machine

/-- `level_a`: the intensity if Direction A is selected, else 0 (R95). -/
def levelA (c : Command) : Byte :=
  match c.dir with
  | .a => c.intensity
  | .b => 0

/-- `level_b`: the intensity if Direction B is selected, else 0 (R95). -/
def levelB (c : Command) : Byte :=
  match c.dir with
  | .a => 0
  | .b => c.intensity

/-- The latched Command (R25). -/
def State.command (s : State) : Command := ⟨s.cmdI, s.cmdDir⟩

/-- The channel written next, after `k` writes of a command: Indicator, DirectionA, DirectionB (R49, R97). -/
def writeChannel (k : Fin 3) : Channel :=
  match k with
  | 0 => .indicator
  | 1 => .directionA
  | 2 => .directionB

/-- The level written next, after `k` writes of a command (R101). -/
def writeLevel (k : Fin 3) (c : Command) : Byte :=
  match k with
  | 0 => c.intensity
  | 1 => levelA c
  | 2 => levelB c

/-- The phase after the write that leaves `Applying(k)` (R26, R101). -/
def afterWrite (k : Fin 3) : Phase :=
  match k with
  | 0 => .applying 1
  | 1 => .applying 2
  | 2 => .idle

end Sys2Proof.Machine
end

