-- ==== Sys2Proof/Machine/Ops.lean ====
section
/-! DEFINITION. The named operations over the state: the level registers, the driver's primitive, the report, the
one exception, the latch and the internal transitions of the state machine. -/

namespace Sys2Proof.Machine

/-- `x[c]`, the read of a level register (R12, R20). -/
def Levels.get (l : Levels) (c : Channel) : Byte :=
  match c with
  | .indicator => l.indicator
  | .directionA => l.dirA
  | .directionB => l.dirB

/-- `x[c] <- v`: the register takes all 8 bits at once, the others are untouched (R12, R23, R48). -/
def Levels.set (l : Levels) (c : Channel) (v : Byte) : Levels :=
  match c with
  | .indicator => { l with indicator := v }
  | .directionA => { l with dirA := v }
  | .directionB => { l with dirB := v }

/-- What the signal generator of a channel is told to produce, at all times (R29, R87; log 15). -/
def State.output (s : State) (c : Channel) : Config.Duty := Config.dutyOfLevel (s.levels.get c)

/-- `set_intensity(c, v)`: the whole effect is `x[c] <- v`, and the triple after it is on the outputs
(R29, R80, R81). A write of the value already held is still a write (R84). DEDUCED: it always takes effect, untorn
(D9, D13; log 10; unsafe). -/
def setIntensity (c : Channel) (v : Byte) (s : State) : State :=
  { s with
    levels := s.levels.set c v
    out := s.out ++ [.wrote c v (s.levels.set c v)] }

/-- `MemWrite(c, 1, v)`, the write primitive of the channel space (R43). -/
def memWrite (c : Channel) (v : Byte) (s : State) : State := setIntensity c v s

/-- `report(e)`: an output event and nothing else (R123). -/
def report (e : CommandError) (s : State) : State :=
  { s with out := s.out ++ [.reported e] }

/-- Taking the one exception: report, and nothing more (R122). No state is saved and no control moves, so there
is no operation that returns from it (R124). -/
def raiseMalformed (s : State) : State := report .malformedCommand s

/-- Idle to `Applying(0)`: the Command is latched (R25, R101). DEDUCED: nothing clears it later (log 6; unsafe for a
claim about the latch in Idle). -/
def latch (c : Command) (s : State) : State :=
  { s with phase := .applying 0, cmdI := c.intensity, cmdDir := c.dir }

/-- The internal transition out of `Applying(k)`: one driver write, then the next phase (R101). Idle has none. -/
def applyNext (s : State) : State :=
  match s.phase with
  | .idle => s
  | .applying k =>
    { setIntensity (writeChannel k) (writeLevel k s.command) s with phase := afterWrite k }

/-- The handling of a valid command to completion: the latch and the three writes in order (R90, R97). DESIGN
CHOICE: the intermediate triples are a trace, the form D2 allows (log 1). -/
def applyCommand (c : Command) (s : State) : State :=
  applyNext (applyNext (applyNext (latch c s)))

/-- A `Write` is handled in Idle only; otherwise the model stops by name (R90, R148, D10). DEDUCED (log 7; unsafe). -/
def handleWrite (s after : State) : Host.Outcome State Fault Refusal :=
  if s.phase = .idle then .next after else .fault .overlappingWrite

end Sys2Proof.Machine
end

