-- ==== Sys2Proof/Machine/Command.lean ====
section
/-! DEFINITION. The meanings of the `Write` rows: the two commands and the two malformed forms. -/

namespace Sys2Proof.Machine

/-- `DRIVE_A n`: writes n to Indicator, n to DirectionA, 0 to DirectionB, in that order (R98). The tail is
ignored (R46, R67). -/
def execDriveA (n : Byte) (_tail : List Byte) (s : State) : Host.Outcome State Fault Refusal :=
  handleWrite s (applyCommand ⟨n, .a⟩ s)

/-- `DRIVE_B n, s`: writes n to Indicator, 0 to DirectionA, n to DirectionB, in that order (R99). The selector has
no effect beyond selecting the row, and the tail is ignored (R46, R67). -/
def execDriveB (n : Byte) (_sel : Byte) (_tail : List Byte) (s : State) :
    Host.Outcome State Fault Refusal :=
  handleWrite s (applyCommand ⟨n, .b⟩ s)

/-- A buffer of one byte raises `MalformedCommand`; the byte is not looked at (R65, R120, R122). -/
def execMalformedLen1 (_value : Byte) (s : State) : Host.Outcome State Fault Refusal :=
  handleWrite s (raiseMalformed s)

/-- The empty buffer raises `MalformedCommand` (R65, R120, R122). -/
def execMalformedLen0 (s : State) : Host.Outcome State Fault Refusal :=
  handleWrite s (raiseMalformed s)

end Sys2Proof.Machine
end

