-- ==== Sys2Proof/Machine/Driver.lean ====
section
/-! DEFINITION. The meaning of the Output Driver's primitive. -/

namespace Sys2Proof.Machine

/-- `SET_INTENSITY`: `x[c] <- v`, in every state; it raises nothing (R80, R81). -/
def execSetIntensity (c : Channel) (v : Byte) (s : State) : Host.Outcome State Fault Refusal :=
  .next (setIntensity c v s)

end Sys2Proof.Machine
end

