-- ==== Sys2Proof/Machine/Link.lean ====
section
/-! DEFINITION. The meanings of the link events. -/

namespace Sys2Proof.Machine

/-- `CONNECT`: no statement; no state is read or written (R110). -/
def execConnect (s : State) : Host.Outcome State Fault Refusal := .next s

/-- `DISCONNECT`: no statement; the levels persist (R111). -/
def execDisconnect (s : State) : Host.Outcome State Fault Refusal := .next s

end Sys2Proof.Machine
end

