-- ==== Sys2Proof/Machine/Dispatch.lean ====
section
/-! DEFINITION. Which meaning each instruction has. -/

namespace Sys2Proof.Machine

def exec (i : Instr) (s : State) : Host.Outcome State Fault Refusal :=
  match i with
  | .driveA n tail => Sys2Proof.Machine.execDriveA n tail s
  | .driveB n sel tail => Sys2Proof.Machine.execDriveB n sel tail s
  | .malformedLen1 value => Sys2Proof.Machine.execMalformedLen1 value s
  | .malformedLen0 => Sys2Proof.Machine.execMalformedLen0 s
  | .connect => Sys2Proof.Machine.execConnect s
  | .disconnect => Sys2Proof.Machine.execDisconnect s
  | .setIntensity channel level => Sys2Proof.Machine.execSetIntensity channel level s

end Sys2Proof.Machine
end

