-- ==== Sys2Proof/Machine/Fetch.lean ====
section
/-! DEFINITION. Where the next instruction comes from, what a step adds after it, and how an event is placed
where the next step takes it. -/

namespace Sys2Proof.Machine

/-- The event the link layer delivers next, and what it has still to deliver: the inbox in its order, then the
events of `later`, if any (R13, R47). -/
def nextEvent (s : State) : Option (Event × State) :=
  match s.inbox with
  | e :: rest => some (e, { s with inbox := rest })
  | [] =>
    match s.later with
    | some k => some (Config.arrival k, { s with later := some (k + 1) })
    | none => none

/-- The next instruction, and the state it runs in. In Idle it is that of the next event, which is thereby
delivered (R47, R101). In `Applying(k)` it is the driver call of the internal transition, and no event is taken
(R101). None: Idle with nothing to deliver. -/
def fetch (s : State) : Option (Instr × State) :=
  match s.phase with
  | .applying k => some (.setIntensity (writeChannel k) (writeLevel k s.command), s)
  | .idle => (nextEvent s).map fun (e, s') => (decodeEvent e, s')

/-- The phase after an instruction fetched in `p`: an internal write moves to the next phase (R26, R101). -/
def retirePhase (p : Phase) (s : State) : State :=
  match p with
  | .idle => s
  | .applying k => { s with phase := afterWrite k }

/-- What a step adds to the outcome of the instruction it fetched in phase `p`. -/
def retire (p : Phase) (o : Host.Outcome State Fault Refusal) : Host.Outcome State Fault Refusal :=
  match o with
  | .next t => .next (retirePhase p t)
  | .fault r => .fault r
  | .refused r => .refused r

/-- The state in which the link layer has yet to deliver exactly `es`, and nothing after. -/
def State.withInbox (s : State) (es : List Event) : State := { s with inbox := es, later := none }

/-- An event placed where the next step takes it: at the head of the inbox, with the machine Idle. DESIGN CHOICE
(log 13; safe). -/
def placeEvent (e : Event) (s : State) : State :=
  { s with phase := .idle, inbox := e :: s.inbox }

end Sys2Proof.Machine
end

