-- ==== Sys2Proof/Machine/Step.lean ====
section
/-! DEFINITION. One step of the machine, and the placing of a word where the next step takes it. -/

namespace Sys2Proof.Machine

/-- One step: the handling of the next event to completion (R13, R47), or one internal transition (R101). With
nothing to deliver the CORE holds its state (R136). DESIGN CHOICE: that this is a step (log 3; safe). -/
def step (s : State) : Host.Outcome State Fault Refusal :=
  match fetch s with
  | none => .next s
  | some (i, s') => retire s.phase (exec i s')

/-- The state whose next step handles the write of the buffer that `nbits` and `w` stand for (log 13). -/
def State.withFetchWord (s : State) (nbits w : Nat) : State :=
  placeEvent (.write (wordBuffer nbits w)) s

end Sys2Proof.Machine
end

