-- ==== Sys2Proof/Safety.lean ====
section
/-! DEFINITION. The terms claims are stated in: runs, what the outputs showed, the quiescent invariant, the
overlap of the two directions, and the sender's discipline. -/

namespace Sys2Proof

/-! ## Commands of a run -/

/-- The event is a `Write`. -/
def Event.isWrite : Event → Bool
  | .write _ => true
  | .connect => false
  | .disconnect => false

/-- The Command an event carries, if it is a valid write (R94). -/
def Event.command : Event → Option Command
  | .write b => (decodeCommand b).toOption
  | .connect => none
  | .disconnect => none

/-- The last valid command of a sequence of events (R102). -/
def lastCommand : List Event → Option Command
  | [] => none
  | e :: es =>
    match lastCommand es with
    | some c => some c
    | none => e.command

/-- The triple a valid command ends in: `(n, n, 0)` for A, `(n, 0, n)` for B (R96). -/
def Command.endLevels (c : Command) : Machine.Levels :=
  match c.dir with
  | .a => ⟨c.intensity, c.intensity, 0⟩
  | .b => ⟨c.intensity, 0, c.intensity⟩

end Sys2Proof

namespace Sys2Proof.Machine

/-! ## Runs -/

/-- `n` steps of the machine, as the host runs it. -/
def runSteps (n : Nat) (s : State) : Host.Outcome State Fault Refusal :=
  Host.Core.run Sys2Proof.core n s

/-- The finite run in which the link layer delivers exactly `es`, in order, from `s` on (R13, R47). -/
def runEvents (s : State) (es : List Event) : Host.Outcome State Fault Refusal :=
  runSteps es.length (s.withInbox es)

/-- The infinite run in which the link layer delivers `ev 0`, `ev 1`, ... from `s` on, each handled to completion
before the next (R13, R47): its state after the first `n` events. -/
def runStream (s : State) (ev : Nat → Event) : Nat → Host.Outcome State Fault Refusal
  | 0 => .next (s.withInbox [])
  | n + 1 =>
    match runStream s ev n with
    | .next t => step (t.withInbox [ev n])
    | .fault r => .fault r
    | .refused r => .refused r

/-- A sequence of driver calls, as a recording driver would make them (R84, R97). -/
def performCalls : List (Channel × Byte) → State → Host.Outcome State Fault Refusal
  | [], s => .next s
  | (c, v) :: rest, s =>
    match exec (.setIntensity c v) s with
    | .next t => performCalls rest t
    | .fault r => .fault r
    | .refused r => .refused r

/-! ## What the outputs showed -/

/-- The driver call an output event records (R97). -/
def OutEvent.call : OutEvent → Option (Channel × Byte)
  | .wrote c v _ => some (c, v)
  | .reported _ => none

/-- The level triple an output event puts on the outputs (R29). -/
def OutEvent.triple : OutEvent → Option Levels
  | .wrote _ _ l => some l
  | .reported _ => none

/-- The report an output event is (R123). -/
def OutEvent.report : OutEvent → Option CommandError
  | .wrote _ _ _ => none
  | .reported e => some e

/-- The calls a recording driver has recorded (R97). -/
def State.calls (s : State) : List (Channel × Byte) := s.out.filterMap OutEvent.call

/-- The level triples passed through, in order (R29). -/
def State.triples (s : State) : List Levels := s.out.filterMap OutEvent.triple

/-- The reports emitted, in order (R123). -/
def State.reports (s : State) : List CommandError := s.out.filterMap OutEvent.report

/-- The level of the last call to a channel, if there is one (R84). -/
def lastLevel (c : Channel) : List (Channel × Byte) → Option Byte
  | [] => none
  | (d, v) :: rest =>
    match lastLevel c rest with
    | some w => some w
    | none => if d = c then some v else none

/-! ## Safety -/

/-- Both direction channels are energized, that is, at a level other than 0 (R22, R146). -/
def Levels.overlap (l : Levels) : Bool := l.dirA != 0 && l.dirB != 0

/-- The quiescent form of a triple: `(a, b) = (i, 0)` or `(a, b) = (0, i)` (R34). -/
abbrev Levels.Quiescent (l : Levels) : Prop :=
  (l.dirA = l.indicator ∧ l.dirB = 0) ∨ (l.dirA = 0 ∧ l.dirB = l.indicator)

/-- The invariant of every step: R34 in Idle, and in `Applying(k)` the first `k` of the latched command's levels
are in their registers (R101). -/
abbrev MachineInv (s : State) : Prop :=
  (s.phase = .idle → s.levels.Quiescent) ∧
  (s.phase = .applying 1 → s.levels.indicator = s.cmdI) ∧
  (s.phase = .applying 2 →
    s.levels.indicator = s.cmdI ∧ s.levels.dirA = levelA s.command)

/-- The sender's discipline of R147, from the triple `l` on: no `DRIVE_A n` with `n ≠ 0` while Direction B is
energized. -/
def Disciplined (l : Levels) : List Event → Bool
  | [] => true
  | e :: es =>
    match e.command with
    | none => Disciplined l es
    | some c =>
      (c.dir != .a || c.intensity == 0 || l.dirB == 0) && Disciplined c.endLevels es

end Sys2Proof.Machine
end

