-- ==== Sys2Proof/Certificates/Slice0/Obligations.lean ====
section
/-! DEFINITION. The statements for the provers, each formalising rules of spec/. A premise `s.phase = .idle` is the
spec's own: a `Write` is handled in Idle (R90, R101). -/

open Sys2Proof Sys2Proof.Machine

/-! ## The step and the decoder -/

/-- R13, R47, R101: in Idle a step takes the first event of the inbox, or with an empty inbox the next of the later
events, and runs the instruction it decodes to, which is well formed; in `Applying(k)` it takes no event, runs the
driver call of the internal transition and moves to the next phase. Where the events stand is the model's choice
(log 2). -/
def Obligations.StepRunsDecodedInstruction : Prop :=
  (∀ (s : State) (e : Event) (rest : List Event), s.phase = .idle → s.inbox = e :: rest →
    (decodeEvent e).wf = true ∧ step s = exec (decodeEvent e) { s with inbox := rest }) ∧
  (∀ (s : State) (k : Nat), s.phase = .idle → s.inbox = [] → s.later = some k →
    (decodeEvent (Config.arrival k)).wf = true ∧
    step s = exec (decodeEvent (Config.arrival k)) { s with later := some (k + 1) }) ∧
  (∀ (s : State) (k : Fin 3), s.phase = .applying k →
    ∃ t, exec (.setIntensity (writeChannel k) (writeLevel k s.command)) s = .next t ∧
      step s = .next { t with phase := afterWrite k })

/-- Log 13: the word placed by `withFetchWord` is the buffer of its bytes, and the next step handles exactly it,
from every state. This is the model's own loading convention. -/
def Obligations.PlacedWordRunsNext : Prop :=
  ∀ (nbits w : Nat) (s : State),
    step (s.withFetchWord nbits w) =
      exec (decodeBuffer (wordBuffer nbits w)) { s with phase := .idle }

/-- R61, R62, R66, R68, log 13: a few words written out from the encodings decode to what they stand for. That a
table word of `nbits` bits is the buffer of exactly those bytes, so that 8 bits are a one-byte buffer and 0 bits
the empty one, is the model's own convention (log 13, DESIGN CHOICE); the rows with an empty encoding other than
`MALFORMED_LEN0` have no word. -/
def Obligations.EncodedWordsDecode : Prop :=
  decodeTableWord 16 0b0000000111001000 = some (.driveA 200 []) ∧
  decodeTableWord 16 0b0000000011001000 = some (.driveB 200 0 []) ∧
  decodeTableWord 16 0b1000000110000000 = some (.driveB 128 129 []) ∧
  decodeTableWord 8 0b10010110 = some (.malformedLen1 150) ∧
  decodeTableWord 0 0 = some .malformedLen0 ∧
  decodeEvent (.write [5, 1, 0]) = .driveA 5 [0] ∧
  decodeEvent .connect = .connect ∧ decodeEvent .disconnect = .disconnect

/-- R63 to R69: decoding and encoding agree. Every event decodes to a well-formed instruction; and a well-formed
instruction is carried by an event exactly when that event decodes to it, whatever its operands and its tail, so no
bit is dropped and `SET_INTENSITY` is carried by none. -/
def Obligations.WireEncodingRoundTrip : Prop :=
  (∀ e : Event, (decodeEvent e).wf = true) ∧
  (∀ (i : Instr) (e : Event), i.wf = true → (encode i = some e ↔ decodeEvent e = i))

/-- R60: the length of the buffer selects the format of the instruction it decodes to, and of all instructions only
those of the `DRIVER` row have no event (R68). -/
def Obligations.LengthSelectsFormat : Prop :=
  (∀ b : Buffer, 2 ≤ b.length → (decodeEvent (.write b)).format = .write2) ∧
  (∀ b : Buffer, b.length = 1 → (decodeEvent (.write b)).format = .write1) ∧
  (∀ b : Buffer, b.length = 0 → (decodeEvent (.write b)).format = .write0) ∧
  (decodeEvent .connect).format = .link ∧ (decodeEvent .disconnect).format = .link ∧
  (∀ i : Instr, encode i = none ↔ i.format = .driver)

/-- R93: the command selects Direction A if the byte at offset 1 is 1, otherwise Direction B; with R91 and R92, the
decoder's whole result, for every length and every tail. -/
def Obligations.DecoderResult : Prop :=
  (∀ b : Buffer, b.length < 2 → decodeCommand b = .error .malformedCommand) ∧
  (∀ (n : Byte) (tail : List Byte), decodeCommand (n :: 1 :: tail) = .ok ⟨n, .a⟩) ∧
  (∀ (n sel : Byte) (tail : List Byte), sel ≠ 1 → decodeCommand (n :: sel :: tail) = .ok ⟨n, .b⟩)

/-- R94, R66: the decoder of the algorithm and the rows of the opcode map yield the same command for every buffer.
-/
def Obligations.DecoderAgreesWithOpcodeMap : Prop :=
  ∀ b : Buffer, decodeCommand b =
    match decodeBuffer b with
    | .driveA n _ => .ok ⟨n, .a⟩
    | .driveB n _ _ => .ok ⟨n, .b⟩
    | .malformedLen1 _ => .error .malformedCommand
    | .malformedLen0 => .error .malformedCommand
    | .connect => .error .malformedCommand
    | .disconnect => .error .malformedCommand
    | .setIntensity _ _ => .error .malformedCommand

/-- R62: `W[7:0] = b[0]`, `W[15:8] = b[1]`, that is `W = b[0] + 256 * b[1]`. -/
def Obligations.PackedWordFields : Prop :=
  ∀ n sel : Byte, wordIntensity (packWord n sel) = n ∧ wordSel (packWord n sel) = sel ∧
    (packWord n sel).toNat = n.toNat + 256 * sel.toNat

/-- R66, R73: the first row the packed word fits is the decoder's row, for every buffer of two bytes or more; of
the eight patterns of `sel ≠ 1` exactly one fits a `DRIVE_B` word and none fits a `DRIVE_A` word. -/
def Obligations.OpcodeTableSelectsTheRow : Prop :=
  (∀ (n sel : Byte) (tail : List Byte),
    selectRow (packWord n sel) = some (decodeBuffer (n :: sel :: tail)).mnemonic) ∧
  (∀ n : Byte, driveBDisjointPatterns.filter (·.fits (packWord n 1)) = []) ∧
  (∀ n sel : Byte, sel ≠ 1 →
    (driveBDisjointPatterns.filter (·.fits (packWord n sel))).length = 1)

/-- R71, R72: every event is a well-formed line, which assembles back to it; a well-formed line of two bytes, other
than a pseudo-instruction or a `RAW` line, is the one printed for its event; the pseudo-instructions expand as the
spec says. -/
def Obligations.AssemblerRoundTrip : Prop :=
  (∀ e : Event, (disassemble e).wf = true ∧ assemble (disassemble e) = e) ∧
  (∀ n : Byte, disassemble (assemble (.driveA n)) = .driveA n) ∧
  (∀ n : Byte, disassemble (assemble (.driveB n)) = .driveB n) ∧
  (∀ n sel : Byte, (Line.driveBSel n sel).wf = true → sel ≠ 0 →
    disassemble (assemble (.driveBSel n sel)) = .driveBSel n sel) ∧
  (∀ n sel : Byte, disassemble (.write [n, sel]) =
    if sel = 1 then .driveA n else if sel = 0 then .driveB n else .driveBSel n sel) ∧
  (∀ b : Buffer, b.length ≠ 2 → disassemble (.write b) = .raw b) ∧
  assemble .stop = assemble (.driveB 0) ∧ assemble .stopA = assemble (.driveA 0)

/-! ## The instructions -/

/-- R98: `DRIVE_A n` with any tail, from any state in Idle, completes: its buffer, its word, the writes and the
triples it passes through, its end state; no event is taken and the phase is Idle again. -/
def Obligations.DriveADrivesDirectionA : Prop :=
  ∀ (n : Byte) (tail : List Byte) (s : State), s.phase = .idle →
    encode (.driveA n tail) = some (.write (n :: 1 :: tail)) ∧
    packWord n 1 &&& 0xFF00 = 0x0100 ∧
    ∃ t, exec (.driveA n tail) s = .next t ∧
      t.levels = ⟨n, n, 0⟩ ∧ t.phase = .idle ∧ t.inbox = s.inbox ∧
      t.later = s.later ∧ t.out = s.out ++
        [.wrote .indicator n ⟨n, s.levels.dirA, s.levels.dirB⟩,
         .wrote .directionA n ⟨n, n, s.levels.dirB⟩,
         .wrote .directionB 0 ⟨n, n, 0⟩]

/-- R99: `DRIVE_B n, s` for every selector but 1 and any tail, from any state in Idle, completes: its buffer, its
word not matched by `DRIVE_A`, the writes and the triples it passes through, its end state; no event is taken and
the phase is Idle again. -/
def Obligations.DriveBDrivesDirectionB : Prop :=
  ∀ (n sel : Byte) (tail : List Byte) (s : State), sel ≠ 1 → s.phase = .idle →
    encode (.driveB n sel tail) = some (.write (n :: sel :: tail)) ∧
    packWord n sel &&& 0xFF00 ≠ 0x0100 ∧
    ∃ t, exec (.driveB n sel tail) s = .next t ∧
      t.levels = ⟨n, 0, n⟩ ∧ t.phase = .idle ∧ t.inbox = s.inbox ∧
      t.later = s.later ∧ t.out = s.out ++
        [.wrote .indicator n ⟨n, s.levels.dirA, s.levels.dirB⟩,
         .wrote .directionA 0 ⟨n, 0, s.levels.dirB⟩,
         .wrote .directionB n ⟨n, 0, n⟩]

/-- R25, D2, log 6: handling a valid command latches it in `cmd_i` and `cmd_dir`; a driver call and an internal
step leave the latch as it is. The latch is the spec's own refinement; that it keeps its values in Idle is the
model's reading of the transition table. -/
def Obligations.ValidCommandIsLatched : Prop :=
  (∀ (n sel : Byte) (tail : List Byte) (s : State), s.phase = .idle →
    ∃ t, exec (decodeBuffer (n :: sel :: tail)) s = .next t ∧
      t.cmdI = n ∧ t.cmdDir = if sel = 1 then .a else .b) ∧
  (∀ (k : Fin 3) (s : State), s.phase = .applying k →
    ∃ t, step s = .next t ∧ t.cmdI = s.cmdI ∧ t.cmdDir = s.cmdDir)

/-- R122: raising `MalformedCommand`, for both malformed rows: one report, and every other piece of state as
before: no level, phase, latched command or pending event changes. -/
def Obligations.MalformedCommandIsReportedOnly : Prop :=
  (∀ (v : Byte) (s : State), s.phase = .idle →
    exec (.malformedLen1 v) s = .next { s with out := s.out ++ [.reported .malformedCommand] }) ∧
  (∀ s : State, s.phase = .idle →
    exec .malformedLen0 s = .next { s with out := s.out ++ [.reported .malformedCommand] })

/-- R110, R111, log 8: `CONNECT` and `DISCONNECT` complete from every state and change nothing. The spec handles
them in Idle (R47, R101), as events of the CORE by its own decision D6; that they have the same meaning when
executed in `Applying(k)` is the model's reading (log 8, DEDUCED). -/
def Obligations.LinkEventsChangeNothing : Prop :=
  ∀ s : State, exec .connect s = .next s ∧ exec .disconnect s = .next s

/-- R80: `set_intensity(c, v)` completes from every state, the register of `c` takes exactly `v`, and nothing else
changes but the output, which shows the triple after the write; it has no wire encoding. -/
def Obligations.SetIntensityWritesItsChannel : Prop :=
  ∀ (c : Channel) (v : Byte) (s : State), encode (.setIntensity c v) = none ∧
    ∃ t, exec (.setIntensity c v) s = .next t ∧
      t.levels.get c = v ∧ (∀ d, d ≠ c → t.levels.get d = s.levels.get d) ∧
      t.phase = s.phase ∧ t.cmdI = s.cmdI ∧ t.cmdDir = s.cmdDir ∧ t.inbox = s.inbox ∧
      t.later = s.later ∧
      t.out = s.out ++ [.wrote c v t.levels]

/-- R85: the driver enforces nothing between the channels: two calls leave any pair of levels in the direction
registers, whatever the indicator holds. -/
def Obligations.DriverHoldsAnyPair : Prop :=
  ∀ (va vb : Byte) (s : State), ∃ t u,
    exec (.setIntensity .directionA va) s = .next t ∧
    exec (.setIntensity .directionB vb) t = .next u ∧
    u.levels = ⟨s.levels.indicator, va, vb⟩

/-- R84: any sequence of driver calls completes, each call is performed (an unchanged value too), and each channel
holds the level of its last call, or its old level if it had none; so two sequences with the same last levels leave
the driver in the same state. -/
def Obligations.DriverKeepsOnlyLastLevels : Prop :=
  (∀ (calls : List (Channel × Byte)) (s : State), ∃ t,
    performCalls calls s = .next t ∧ t.calls = s.calls ++ calls ∧
    ∀ c, t.levels.get c = (lastLevel c calls).getD (s.levels.get c)) ∧
  (∀ (calls calls' : List (Channel × Byte)) (s t t' : State),
    (∀ c, lastLevel c calls = lastLevel c calls') →
    performCalls calls s = .next t → performCalls calls' s = .next t' → t.levels = t'.levels)

/-- R30, R47: whatever instruction completes, it takes no event from and adds none to the inbox, leaves the phase
as it found it, and only appends to the outputs. -/
def Obligations.InstructionFrame : Prop :=
  ∀ (i : Instr) (s t : State), exec i s = .next t →
    t.inbox = s.inbox ∧ t.later = s.later ∧ t.phase = s.phase ∧ ∃ new, t.out = s.out ++ new

/-- R148, D10, log 7: a `Write` row executed while a command is being applied stops by name. The spec gives no step
there; the fault is the model's form of it. -/
def Obligations.OverlappingWriteStops : Prop :=
  ∀ (k : Fin 3) (n sel : Byte) (tail : List Byte) (s : State), s.phase = .applying k →
    exec (.driveA n tail) s = .fault .overlappingWrite ∧
    exec (.driveB n sel tail) s = .fault .overlappingWrite ∧
    exec (.malformedLen1 n) s = .fault .overlappingWrite ∧
    exec .malformedLen0 s = .fault .overlappingWrite

/-! ## Valid and malformed buffers -/

/-- R96: the end state of a valid command, for every buffer of two bytes or more and whatever the levels were. -/
def Obligations.ValidCommandEndState : Prop :=
  ∀ (b : Buffer) (s : State), 2 ≤ b.length → s.phase = .idle →
    ∃ n sel t, b[0]? = some n ∧ b[1]? = some sel ∧ exec (decodeBuffer b) s = .next t ∧
      t.levels.indicator = n ∧
      (sel = 1 → t.levels.dirA = n ∧ t.levels.dirB = 0) ∧
      (sel ≠ 1 → t.levels.dirA = 0 ∧ t.levels.dirB = n) ∧
      t.phase = .idle

/-- R97: a valid command performs exactly three writes, in the order Indicator, DirectionA, DirectionB, whatever
the registers hold; a malformed buffer performs none. -/
def Obligations.ThreeWritesInOrder : Prop :=
  (∀ (n sel : Byte) (tail : List Byte) (s : State), s.phase = .idle →
    ∃ t, exec (decodeBuffer (n :: sel :: tail)) s = .next t ∧
      t.calls = s.calls ++
        [(.indicator, n), (.directionA, if sel = 1 then n else 0),
         (.directionB, if sel = 1 then 0 else n)]) ∧
  (∀ (b : Buffer) (s : State), b.length < 2 → s.phase = .idle →
    ∃ t, exec (decodeBuffer b) s = .next t ∧ t.calls = s.calls)

/-- R120, R121: exactly the buffers shorter than two bytes raise `MalformedCommand`, one report each. -/
def Obligations.OnlyShortBuffersRaise : Prop :=
  ∀ (b : Buffer) (s : State), s.phase = .idle →
    ∃ t, exec (decodeBuffer b) s = .next t ∧
      t.reports = s.reports ++ if b.length < 2 then [.malformedCommand] else []

/-- R70: every selector but 1 and every tail give the same outcome, in every state; at intensity 0 both commands
end in `(0, 0, 0)`; and two commands end in one triple only if they are the same or both have intensity 0. -/
def Obligations.DegenerateEncodings : Prop :=
  (∀ (n sel sel' : Byte) (tail tail' : List Byte) (s : State), sel ≠ 1 → sel' ≠ 1 →
    exec (decodeBuffer (n :: sel :: tail)) s = exec (decodeBuffer (n :: sel' :: tail')) s) ∧
  (∀ (n : Byte) (tail tail' : List Byte) (s : State),
    exec (decodeBuffer (n :: 1 :: tail)) s = exec (decodeBuffer (n :: 1 :: tail')) s) ∧
  (∀ (sel : Byte) (tail : List Byte) (s : State), s.phase = .idle →
    ∃ t, exec (decodeBuffer (0 :: sel :: tail)) s = .next t ∧ t.levels = ⟨0, 0, 0⟩) ∧
  (∀ (n sel n' sel' : Byte) (s s' t t' : State),
    exec (decodeBuffer [n, sel]) s = .next t → exec (decodeBuffer [n', sel']) s' = .next t' →
    (t.levels = t'.levels ↔ n = n' ∧ (n = 0 ∨ (sel = 1 ↔ sel' = 1))))

/-! ## The state machine -/

/-- R101, D2: all transitions; `Applying(k)` is the spec's own refinement of Applying. The third to fifth are the
internal steps out of `Applying(k)`; the second says that handling a valid write is the latch and then those three
steps. -/
def Obligations.StateMachineTransitions : Prop :=
  ∀ (s : State),
    (∀ (b : Buffer) (rest : List Event), s.phase = .idle → s.inbox = .write b :: rest →
      b.length < 2 →
      step s = .next { s with inbox := rest, out := s.out ++ [.reported .malformedCommand] }) ∧
    (∀ (n sel : Byte) (tail : List Byte) (rest : List Event), s.phase = .idle →
      s.inbox = .write (n :: sel :: tail) :: rest →
      step s = runSteps 3
        { s with inbox := rest, phase := .applying 0, cmdI := n,
                 cmdDir := if sel = 1 then .a else .b }) ∧
    (s.phase = .applying 0 →
      step s = .next
        { s with
          levels := { s.levels with indicator := s.cmdI }
          phase := .applying 1
          out := s.out ++ [.wrote .indicator s.cmdI { s.levels with indicator := s.cmdI }] }) ∧
    (s.phase = .applying 1 → ∀ v, v = (if s.cmdDir = .a then s.cmdI else 0) →
      step s = .next
        { s with
          levels := { s.levels with dirA := v }
          phase := .applying 2
          out := s.out ++ [.wrote .directionA v { s.levels with dirA := v }] }) ∧
    (s.phase = .applying 2 → ∀ v, v = (if s.cmdDir = .b then s.cmdI else 0) →
      step s = .next
        { s with
          levels := { s.levels with dirB := v }
          phase := .idle
          out := s.out ++ [.wrote .directionB v { s.levels with dirB := v }] }) ∧
    (∀ rest, s.phase = .idle → s.inbox = .connect :: rest →
      step s = .next { s with inbox := rest }) ∧
    (∀ rest, s.phase = .idle → s.inbox = .disconnect :: rest →
      step s = .next { s with inbox := rest })

/-- R101, D2: Applying always completes to Idle, within the writes that are left; those writes put the latched
command's levels in their registers, and no event is taken meanwhile. -/
def Obligations.ApplyingCompletes : Prop :=
  ∀ (s : State) (k : Fin 3), s.phase = .applying k →
    ∃ t, runSteps (3 - k.val) s = .next t ∧ t.phase = .idle ∧ t.inbox = s.inbox ∧
      t.later = s.later ∧ t.levels.indicator = (if k = 0 then s.cmdI else s.levels.indicator) ∧
      t.levels.dirA = (if k = 2 then s.levels.dirA else if s.cmdDir = .a then s.cmdI else 0) ∧
      t.levels.dirB = (if s.cmdDir = .b then s.cmdI else 0)

/-- R125 (its last clause derived by the spec), log 2, log 3: nothing is fatal. From every state every run goes on;
from Idle, after every event the phase is Idle and the next event is accepted; and a valid command is obeyed after
any sequence of events. What a step does past the end of the inbox is the model's choice: it takes the next of the
later events (log 2, DESIGN CHOICE), or with none holds its state (log 3, DESIGN CHOICE). -/
def Obligations.NothingIsFatal : Prop :=
  (∀ (n : Nat) (s : State), ∃ t, runSteps n s = .next t) ∧
  (∀ (n : Nat) (s t : State), s.phase = .idle → runSteps n s = .next t →
    t.phase = .idle ∧ t.inbox = s.inbox.drop n) ∧
  (∀ (es : List Event) (n sel : Byte) (tail : List Byte) (s : State), s.phase = .idle →
    ∃ t, runEvents s (es ++ [.write (n :: sel :: tail)]) = .next t ∧
      t.levels = if sel = 1 then ⟨n, n, 0⟩ else ⟨n, 0, n⟩)

/-- R136, R132, log 3: with no event to deliver, now or later, the machine in Idle holds its whole state for any
number of steps. That a step with nothing to deliver is a next state at all is the model's choice. -/
def Obligations.IdleHoldsItsState : Prop :=
  ∀ (n : Nat) (s : State), s.phase = .idle → s.inbox = [] → s.later = none → runSteps n s = .next s

/-! ## Reset and the invariant -/

/-- R142, R25: the reset state: levels `(0, 0, 0)`, Idle, nothing pending, no report; the first thing the CORE does
is to handle the first event delivered; and nothing is latched, that is, the first event has the same effect on the
levels, the phase, the pending events and the outputs whatever `cmd_i` and `cmd_dir` hold. So no clause rests on
the values that log 5 (DESIGN CHOICE) gives them; `inbox` and `out` are the model's own fields (log 2, log 4). -/
def Obligations.ResetStateIsInert : Prop :=
  State.reset.levels = ⟨0, 0, 0⟩ ∧ State.reset.phase = .idle ∧ State.reset.inbox = [] ∧
  State.reset.out = [] ∧
  ∀ (e : Event) (es : List Event),
    step (State.reset.withInbox (e :: es)) = exec (decodeEvent e) (State.reset.withInbox es) ∧
    ∀ (i : Byte) (d : Direction), ∃ t t',
      step (State.reset.withInbox (e :: es)) = .next t ∧
      step { State.reset.withInbox (e :: es) with cmdI := i, cmdDir := d } = .next t' ∧
      t'.levels = t.levels ∧ t'.phase = t.phase ∧ t'.inbox = t.inbox ∧ t'.later = t.later ∧
      t'.out = t.out

/-- R33, R34: the reset state satisfies the invariant. -/
def Obligations.ResetSatisfiesInvariant : Prop := MachineInv State.reset

/-- R34, R101 (both rest on the spec's own refinement, D2): from every state with the invariant, also inside a
command, each step keeps it: in Idle the triple has the quiescent form, in `Applying(k)` the levels already written
are those of the latched command. -/
def Obligations.StepKeepsInvariant : Prop :=
  ∀ s t : State, MachineInv s → step s = .next t → MachineInv t

/-- R34 (derived by the spec): in every state reached from reset with `phase = Idle`, whatever was delivered, one
direction holds the indicator's level and the other 0, so at most one is energized and it has the indicator's
level; and inside a command this can fail. -/
def Obligations.QuiescentStatesHaveOneDirection : Prop :=
  (∀ (n : Nat) (es : List Event) (t : State), runSteps n (State.reset.withInbox es) = .next t →
    t.phase = .idle →
    (((t.levels.dirA, t.levels.dirB) = (t.levels.indicator, 0) ∨
      (t.levels.dirA, t.levels.dirB) = (0, t.levels.indicator)) ∧
     (t.levels.dirA = 0 ∨ t.levels.dirB = 0) ∧
     (t.levels.dirA ≠ 0 → t.levels.dirA = t.levels.indicator) ∧
     (t.levels.dirB ≠ 0 → t.levels.dirB = t.levels.indicator))) ∧
  (∃ es t l, runEvents State.reset es = .next t ∧ l ∈ t.triples ∧ ¬ l.Quiescent)

/-! ## Runs -/

/-- R13, R47: every point of a run over an infinite sequence of events, whatever the sequence, is the end of the
finite run over its first `n` events; so what holds of every finite run holds all along every infinite one. -/
def Obligations.InfiniteRunIsEveryFiniteRun : Prop :=
  ∀ (ev : Nat → Event) (n : Nat) (s : State), s.phase = .idle →
    runStream s ev n = runEvents s ((List.range n).map ev)

/-- R13, R34, R102, R125 (the general forms derived by the spec): over every infinite sequence of events, from
every state in Idle with the quiescent form, the run never stops, and after each event it is in Idle, in the
quiescent form, with the triple of the last valid command so far; and there is an infinite run from reset whose
levels change at every event, so that an infinite run need not settle. -/
def Obligations.InfiniteRunsNeverStop : Prop :=
  (∀ (ev : Nat → Event) (n : Nat) (s : State), s.phase = .idle → s.levels.Quiescent →
    ∃ t, runStream s ev n = .next t ∧ t.phase = .idle ∧ t.levels.Quiescent ∧
      t.levels = match lastCommand ((List.range n).map ev) with
        | some c => c.endLevels
        | none => s.levels) ∧
  (∃ ev : Nat → Event, ∀ n : Nat, ∃ t u, runStream State.reset ev n = .next t ∧
    runStream State.reset ev (n + 1) = .next u ∧ t.levels ≠ u.levels)

/-- R13, log 2: the machine's own steps, with an empty inbox and later events from number `k` on, are the infinite
run over those events, which are free: after `n` steps the states agree in everything but the number of the next
event. That the events stand behind a number in the state is the model's choice. -/
def Obligations.StepsRunTheLaterEvents : Prop :=
  ∀ (n k : Nat) (s : State), s.phase = .idle → s.inbox = [] → s.later = some k →
    ∃ u, runStream s (fun i => Config.arrival (k + i)) n = .next u ∧
      runSteps n s = .next { u with later := some (k + n) }

/-- R102 (its general form is derived by the spec): a run of any events ends in the triple of its last valid
command, or in the triple it began with if there is none; and applying a command twice leaves the levels of
applying it once. -/
def Obligations.LastValidCommandDecidesLevels : Prop :=
  (∀ (es : List Event) (s : State), s.phase = .idle →
    ∃ t, runEvents s es = .next t ∧
      t.levels = match lastCommand es with
        | some c => c.endLevels
        | none => s.levels) ∧
  (∀ (b : Buffer) (s : State), s.phase = .idle →
    ∃ t u, runEvents s [.write b] = .next t ∧ runEvents s [.write b, .write b] = .next u ∧
      t.levels = u.levels)

/-- R94, R102: what a run with a valid command in it ends in does not depend on the levels, the latched command or
the outputs it began with. -/
def Obligations.EndLevelsForgetTheStart : Prop :=
  ∀ (es : List Event) (s s' t t' : State), s.phase = .idle → s'.phase = .idle →
    (∃ e ∈ es, e.command ≠ none) →
    runEvents s es = .next t → runEvents s' es = .next t' → t.levels = t'.levels

/-- R112: removing every `Connect` and `Disconnect` from a run changes nothing at its end: no level, no triple on
the way, no report. -/
def Obligations.LinkDropsChangeNoRun : Prop :=
  ∀ (es : List Event) (s : State), s.phase = .idle →
    ∃ t, runEvents s es = .next t ∧ runEvents s (es.filter Event.isWrite) = .next t

/-- R124: any number of malformed writes are each reported once and change nothing else, and the next command is
processed normally, as it would have been without them. -/
def Obligations.MalformedWritesInARow : Prop :=
  ∀ (bs : List Buffer) (s : State), s.phase = .idle → (∀ b ∈ bs, b.length < 2) →
    runEvents s (bs.map .write) = .next
      { s.withInbox [] with out := s.out ++ List.replicate bs.length (.reported .malformedCommand) } ∧
    ∀ b : Buffer, ∃ t u, runEvents s (bs.map .write ++ [.write b]) = .next t ∧
      runEvents s [.write b] = .next u ∧ t.levels = u.levels ∧ t.calls = u.calls

/-- R111, R149, log 3: after any number of disconnects and any number of further steps with no event, the levels,
and all else but the delivered events, are as they were. That steps go on with no event is the model's choice. -/
def Obligations.DisconnectNeverStopsTheMotor : Prop :=
  ∀ (m n : Nat) (s : State), s.phase = .idle →
    runSteps (m + n) (s.withInbox (List.replicate m .disconnect)) = .next (s.withInbox [])

/-! ## Hazards -/

/-- R146 (derived by the spec from R95 and R97): the triples on the outputs during a command that starts with at
most one direction energized, and the one case, and the one window, in which both are. -/
def Obligations.OverlapExactlyOnReversalToA : Prop :=
  ∀ (n sel : Byte) (tail : List Byte) (s : State), s.phase = .idle → sel ≠ 1 →
    (s.levels.dirA = 0 ∨ s.levels.dirB = 0) →
    (∃ t, exec (.driveA n tail) s = .next t ∧
      t.triples = s.triples ++
        [⟨n, s.levels.dirA, s.levels.dirB⟩, ⟨n, n, s.levels.dirB⟩, ⟨n, n, 0⟩] ∧
      Levels.overlap ⟨n, s.levels.dirA, s.levels.dirB⟩ = false ∧
      (Levels.overlap ⟨n, n, s.levels.dirB⟩ = true ↔ n ≠ 0 ∧ s.levels.dirB ≠ 0) ∧
      Levels.overlap ⟨n, n, 0⟩ = false) ∧
    (∃ t, exec (.driveB n sel tail) s = .next t ∧
      t.triples = s.triples ++
        [⟨n, s.levels.dirA, s.levels.dirB⟩, ⟨n, 0, s.levels.dirB⟩, ⟨n, 0, n⟩] ∧
      ∀ l ∈ [Levels.mk n s.levels.dirA s.levels.dirB, ⟨n, 0, s.levels.dirB⟩, ⟨n, 0, n⟩],
        l.overlap = false)

/-- R147 (its conclusion is derived by the spec from R146): with the sender's discipline, from any state in Idle
with at most one direction energized, no triple the outputs carry during the run has both energized. -/
def Obligations.DisciplinedSenderNeverOverlaps : Prop :=
  ∀ (es : List Event) (s : State), s.phase = .idle → s.levels.overlap = false →
    Disciplined s.levels es = true →
    ∃ t new, runEvents s es = .next t ∧ t.triples = s.triples ++ new ∧
      (∀ l ∈ new, l.overlap = false) ∧ t.levels.overlap = false

/-- R146, C2: the claim that no triple of any run from reset has both directions energized. It FAILS: a direct
reversal from B to A refutes it. -/
def Obligations.NoRunEverOverlaps : Prop :=
  ∀ (es : List Event) (t : State), runEvents State.reset es = .next t →
    ∀ l ∈ t.triples, l.overlap = false

/-! ## The outputs -/

/-- R22, R87: the output of every channel is "off" at level 0 and "full" at level 255, in every state. -/
def Obligations.OutputAtTheTwoGivenLevels : Prop :=
  ∀ (s : State) (c : Channel),
    (s.levels.get c = 0 → s.output c = .off) ∧ (s.levels.get c = 255 → s.output c = .full)
end

