-- ==== Sys2Proof/Laws/Decode.lean ====
section
/-! SUPPORT. What the decoder answers for each shape of buffer, and the fields of the packed word. -/

namespace Sys2Proof

@[simp] theorem directionOf_one : directionOf 1 = .a := rfl

theorem directionOf_other {sel : Byte} (h : sel ≠ 1) : directionOf sel = .b := if_neg h

@[simp] theorem decodeBuffer_nil : decodeBuffer [] = .malformedLen0 := rfl

@[simp] theorem decodeBuffer_one (v : Byte) : decodeBuffer [v] = .malformedLen1 v := rfl

@[simp] theorem decodeBuffer_selOne (n : Byte) (tail : List Byte) :
    decodeBuffer (n :: 1 :: tail) = .driveA n tail := rfl

theorem decodeBuffer_selOther {sel : Byte} (n : Byte) (tail : List Byte) (h : sel ≠ 1) :
    decodeBuffer (n :: sel :: tail) = .driveB n sel tail := if_neg h

/-- A buffer too short is rejected by name (R91). -/
theorem decodeCommand_short {b : Buffer} (h : b.length < 2) :
    decodeCommand b = .error .malformedCommand := if_pos h

/-- The decoder's result for a buffer of two bytes or more (R94). -/
@[simp] theorem decodeCommand_cons_cons (n sel : Byte) (tail : List Byte) :
    decodeCommand (n :: sel :: tail) = .ok ⟨n, directionOf sel⟩ := by
  simp [decodeCommand, Config.minCmdLen, memRead]

/-- The bits of the packed word: the first byte below, the second above (R62). -/
theorem getLsbD_packWord (n sel : Byte) (i : Nat) :
    (packWord n sel).getLsbD i = if i < 8 then n.getLsbD i else sel.getLsbD (i - 8) := by
  by_cases h : i < 8
  · simp [packWord, h, show i < 16 by omega]
  · by_cases h16 : i < 16
    · simp [packWord, h, h16, BitVec.getLsbD_of_ge n i (by omega)]
    · simp [packWord, h, h16, BitVec.getLsbD_of_ge sel (i - 8) (by omega)]

end Sys2Proof
end

