-- ==== Sys2Proof/Laws/State.lean ====
section
/-! SUPPORT. One lemma per field per update of the state, and the reads of the level registers after a write. -/

namespace Sys2Proof.Machine

section Registers
variable (l : Levels) (c d : Channel) (v : Byte)

@[simp] theorem Levels.get_set_same : (l.set c v).get c = v := by cases c <;> rfl

theorem Levels.get_set_other (h : d ≠ c) : (l.set c v).get d = l.get d := by
  cases c <;> cases d <;> first | rfl | exact absurd rfl h

/-- Two triples that read alike are equal. -/
theorem Levels.ext_get {l m : Levels} (h : ∀ c, l.get c = m.get c) : l = m := by
  cases l
  cases m
  simpa [Levels.get] using And.intro (h .indicator) (And.intro (h .directionA) (h .directionB))

@[simp] theorem Levels.get_indicator : l.get .indicator = l.indicator := rfl
@[simp] theorem Levels.get_directionA : l.get .directionA = l.dirA := rfl
@[simp] theorem Levels.get_directionB : l.get .directionB = l.dirB := rfl
@[simp] theorem Levels.set_indicator : l.set .indicator v = ⟨v, l.dirA, l.dirB⟩ := rfl
@[simp] theorem Levels.set_directionA : l.set .directionA v = ⟨l.indicator, v, l.dirB⟩ := rfl
@[simp] theorem Levels.set_directionB : l.set .directionB v = ⟨l.indicator, l.dirA, v⟩ := rfl

end Registers

section Fields
variable (c : Channel) (v : Byte) (cmd : Command) (e : CommandError) (es : List Event) (ev : Event) (s : State)

@[simp] theorem setIntensity_levels : (setIntensity c v s).levels = s.levels.set c v := rfl
@[simp] theorem setIntensity_phase : (setIntensity c v s).phase = s.phase := rfl
@[simp] theorem setIntensity_cmdI : (setIntensity c v s).cmdI = s.cmdI := rfl
@[simp] theorem setIntensity_cmdDir : (setIntensity c v s).cmdDir = s.cmdDir := rfl
@[simp] theorem setIntensity_inbox : (setIntensity c v s).inbox = s.inbox := rfl
@[simp] theorem setIntensity_later : (setIntensity c v s).later = s.later := rfl
@[simp] theorem setIntensity_out :
    (setIntensity c v s).out = s.out ++ [.wrote c v (s.levels.set c v)] := rfl

@[simp] theorem report_levels : (report e s).levels = s.levels := rfl
@[simp] theorem report_phase : (report e s).phase = s.phase := rfl
@[simp] theorem report_cmdI : (report e s).cmdI = s.cmdI := rfl
@[simp] theorem report_cmdDir : (report e s).cmdDir = s.cmdDir := rfl
@[simp] theorem report_inbox : (report e s).inbox = s.inbox := rfl
@[simp] theorem report_later : (report e s).later = s.later := rfl
@[simp] theorem report_out : (report e s).out = s.out ++ [.reported e] := rfl

@[simp] theorem latch_levels : (latch cmd s).levels = s.levels := rfl
@[simp] theorem latch_phase : (latch cmd s).phase = .applying 0 := rfl
@[simp] theorem latch_cmdI : (latch cmd s).cmdI = cmd.intensity := rfl
@[simp] theorem latch_cmdDir : (latch cmd s).cmdDir = cmd.dir := rfl
@[simp] theorem latch_inbox : (latch cmd s).inbox = s.inbox := rfl
@[simp] theorem latch_later : (latch cmd s).later = s.later := rfl
@[simp] theorem latch_out : (latch cmd s).out = s.out := rfl

@[simp] theorem withInbox_levels : (s.withInbox es).levels = s.levels := rfl
@[simp] theorem withInbox_phase : (s.withInbox es).phase = s.phase := rfl
@[simp] theorem withInbox_cmdI : (s.withInbox es).cmdI = s.cmdI := rfl
@[simp] theorem withInbox_cmdDir : (s.withInbox es).cmdDir = s.cmdDir := rfl
@[simp] theorem withInbox_inbox : (s.withInbox es).inbox = es := rfl
@[simp] theorem withInbox_later : (s.withInbox es).later = none := rfl
@[simp] theorem withInbox_out : (s.withInbox es).out = s.out := rfl

@[simp] theorem placeEvent_levels : (placeEvent ev s).levels = s.levels := rfl
@[simp] theorem placeEvent_phase : (placeEvent ev s).phase = .idle := rfl
@[simp] theorem placeEvent_cmdI : (placeEvent ev s).cmdI = s.cmdI := rfl
@[simp] theorem placeEvent_cmdDir : (placeEvent ev s).cmdDir = s.cmdDir := rfl
@[simp] theorem placeEvent_inbox : (placeEvent ev s).inbox = ev :: s.inbox := rfl
@[simp] theorem placeEvent_later : (placeEvent ev s).later = s.later := rfl
@[simp] theorem placeEvent_out : (placeEvent ev s).out = s.out := rfl

end Fields

end Sys2Proof.Machine
end

