-- ==== Sys2Proof/Laws/Ops.lean ====
section
/-! SUPPORT. What each shared operation can do, said once: the exception, the internal transitions, a whole
command, a write's guard, the fetch and the step. -/

namespace Sys2Proof.Machine

/-- Raising the exception appends one report and changes nothing else (R122). -/
theorem raiseMalformed_eq (s : State) :
    raiseMalformed s = { s with out := s.out ++ [.reported .malformedCommand] } := rfl

/-- The channel space is written by the driver's primitive (R43). -/
theorem memWrite_eq (c : Channel) (v : Byte) (s : State) : memWrite c v s = setIntensity c v s := rfl

theorem applyNext_idle {s : State} (h : s.phase = .idle) : applyNext s = s := by
  simp [applyNext, h]

theorem applyNext_applying {s : State} {k : Fin 3} (h : s.phase = .applying k) :
    applyNext s =
      { setIntensity (writeChannel k) (writeLevel k s.command) s with phase := afterWrite k } := by
  simp [applyNext, h]

/-- A whole command: the latch, three writes in order, and Idle again (R90, R97). -/
theorem applyCommand_eq (c : Command) (s : State) :
    applyCommand c s =
      { s with
        levels := ⟨c.intensity, levelA c, levelB c⟩
        phase := .idle
        cmdI := c.intensity
        cmdDir := c.dir
        out := s.out ++
          [.wrote .indicator c.intensity ⟨c.intensity, s.levels.dirA, s.levels.dirB⟩,
           .wrote .directionA (levelA c) ⟨c.intensity, levelA c, s.levels.dirB⟩,
           .wrote .directionB (levelB c) ⟨c.intensity, levelA c, levelB c⟩] } := by
  simp [applyCommand, applyNext, latch, setIntensity, writeChannel, writeLevel, afterWrite,
    State.command]

/-- Step 5 and the end triple agree (R95, R96). -/
theorem endLevels_eq (c : Command) : c.endLevels = ⟨c.intensity, levelA c, levelB c⟩ := by
  rcases c with ⟨n, _ | _⟩ <;> simp [Command.endLevels, levelA, levelB]

/-- A write answers next only in Idle, and then the given state. -/
theorem handleWrite_next {s a t : State} (h : handleWrite s a = .next t) :
    s.phase = .idle ∧ t = a := by
  unfold handleWrite at h
  split at h
  · cases h
    exact ⟨‹_›, rfl⟩
  · cases h

theorem handleWrite_idle {s a : State} (h : s.phase = .idle) : handleWrite s a = .next a := by
  simp [handleWrite, h]

theorem handleWrite_applying {s a : State} {k : Fin 3} (h : s.phase = .applying k) :
    handleWrite s a = .fault .overlappingWrite := by
  simp [handleWrite, h]

/-- The next event is the head of the inbox, else the next of the later ones, else there is none (R13). -/
theorem nextEvent_inbox {s : State} {e : Event} {rest : List Event} (hi : s.inbox = e :: rest) :
    nextEvent s = some (e, { s with inbox := rest }) := by
  simp [nextEvent, hi]

theorem nextEvent_arrival {s : State} {k : Nat} (hi : s.inbox = []) (hl : s.later = some k) :
    nextEvent s = some (Config.arrival k, { s with later := some (k + 1) }) := by
  simp [nextEvent, hi, hl]

theorem nextEvent_none {s : State} (hi : s.inbox = []) (hl : s.later = none) : nextEvent s = none := by
  simp [nextEvent, hi, hl]

theorem fetch_idle {s : State} (h : s.phase = .idle) :
    fetch s = (nextEvent s).map fun (e, s') => (decodeEvent e, s') := by
  simp [fetch, h]

theorem fetch_applying {s : State} {k : Fin 3} (h : s.phase = .applying k) :
    fetch s = some (.setIntensity (writeChannel k) (writeLevel k s.command), s) := by
  simp [fetch, h]

@[simp] theorem retire_idle (o : Host.Outcome State Fault Refusal) : retire .idle o = o := by
  cases o <;> rfl

/-- In Idle a step runs the instruction of the next event (R47, R101). -/
theorem step_idle {s s' : State} {e : Event} (h : s.phase = .idle) (hn : nextEvent s = some (e, s')) :
    step s = exec (decodeEvent e) s' := by
  simp [step, fetch_idle h, hn, h]

theorem step_event {s : State} {e : Event} {rest : List Event} (h : s.phase = .idle)
    (hi : s.inbox = e :: rest) : step s = exec (decodeEvent e) { s with inbox := rest } :=
  step_idle h (nextEvent_inbox hi)

theorem step_arrival {s : State} {k : Nat} (h : s.phase = .idle) (hi : s.inbox = [])
    (hl : s.later = some k) :
    step s = exec (decodeEvent (Config.arrival k)) { s with later := some (k + 1) } :=
  step_idle h (nextEvent_arrival hi hl)

theorem step_nothing {s : State} (h : s.phase = .idle) (hi : s.inbox = []) (hl : s.later = none) :
    step s = .next s := by
  simp [step, fetch_idle h, nextEvent_none hi hl]

theorem step_applying {s : State} {k : Fin 3} (h : s.phase = .applying k) :
    step s = .next (applyNext s) := by
  simp [step, fetch_applying h, h, exec, execSetIntensity, retire, retirePhase,
    applyNext_applying h]

theorem runSteps_zero (s : State) : runSteps 0 s = .next s := rfl

theorem runSteps_succ (n : Nat) (s : State) :
    runSteps (n + 1) s =
      match step s with
      | .next t => runSteps n t
      | .fault r => .fault r
      | .refused r => .refused r := by
  cases h : step s <;> simp [runSteps, Host.Core.run, Sys2Proof.core, h]

theorem runStream_zero (s : State) (ev : Nat → Event) : runStream s ev 0 = .next (s.withInbox []) := rfl

theorem runStream_succ_of_next {s t : State} {ev : Nat → Event} {n : Nat}
    (h : runStream s ev n = .next t) : runStream s ev (n + 1) = step (t.withInbox [ev n]) := by
  simp [runStream, h]

theorem runSteps_succ_of_next {s t : State} (n : Nat) (h : step s = .next t) :
    runSteps (n + 1) s = runSteps n t := by
  rw [runSteps_succ, h]

end Sys2Proof.Machine
end

