-- ==== Sys2Proof/Laws/PerInstr.lean ====
section
/-! SUPPORT. Lemmas with one case per instruction. -/

/-- An instruction's event has the format of the instruction's row, and only the `DRIVER` row has no event
(R60, R68, R73). -/
def Sys2Proof.Laws.FormatAgrees.Statement (i : Sys2Proof.Instr) : Prop :=
  i.wf = true →
    match Sys2Proof.encode i with
    | some e => Sys2Proof.formatOfEvent e = i.format ∧ i.format ≠ .driver
    | none => i.format = .driver

namespace Sys2Proof.Laws.FormatAgrees

theorem driveA (n : Byte) (tail : List Byte) : Statement (.driveA n tail) :=
  fun _ => ⟨rfl, Format.noConfusion⟩

theorem driveB (n sel : Byte) (tail : List Byte) : Statement (.driveB n sel tail) :=
  fun _ => ⟨rfl, Format.noConfusion⟩

theorem malformedLen1 (v : Byte) : Statement (.malformedLen1 v) :=
  fun _ => ⟨rfl, Format.noConfusion⟩

theorem malformedLen0 : Statement .malformedLen0 := fun _ => ⟨rfl, Format.noConfusion⟩

theorem connect : Statement .connect := fun _ => ⟨rfl, Format.noConfusion⟩

theorem disconnect : Statement .disconnect := fun _ => ⟨rfl, Format.noConfusion⟩

theorem setIntensity (c : Channel) (v : Byte) : Statement (.setIntensity c v) := fun _ => rfl

end Sys2Proof.Laws.FormatAgrees
end

