-- ==== Sys2Proof/Tests/Slice0.lean ====
section
/-! SUPPORT. The model's own tests: vectors of spec/95_test_vectors.md, words written out from the encodings, the
check of well-formedness, and for every statement with hypotheses a state and operands that meet them. -/

open Sys2Proof Sys2Proof.Machine

namespace Sys2Proof.Tests

/-- A state in Idle with the given level triple. -/
def idleAt (i a b : Byte) : State := { State.reset with levels := ⟨i, a, b⟩ }

/-- A state inside the command `DRIVE_A 9`, after `k` writes, over the triple `(9, 9, 4)`. -/
def applyingAt (k : Fin 3) : State :=
  { State.reset with levels := ⟨9, 9, 4⟩, phase := .applying k, cmdI := 9, cmdDir := .a }

/-- The state an outcome carries, if any. -/
def stateOf : Host.Outcome State Fault Refusal → Option State
  | .next t => some t
  | .fault _ => none
  | .refused _ => none

/-- The level triple an outcome ends in. -/
def levelsOf (o : Host.Outcome State Fault Refusal) : Option Levels := (stateOf o).map State.levels

/-- The triples an outcome passed through. -/
def triplesOf (o : Host.Outcome State Fault Refusal) : Option (List Levels) :=
  (stateOf o).map State.triples

/-- The reports an outcome emitted. -/
def reportsOf (o : Host.Outcome State Fault Refusal) : Option (List CommandError) :=
  (stateOf o).map State.reports

theorem exists_of_stateOf {o : Host.Outcome State Fault Refusal} {t : State}
    (h : stateOf o = some t) : o = .next t := by
  cases o <;> simp_all [stateOf]

/-! ## Words and buffers, from R61, R62 and table 2.1 -/

theorem test_word_driveA : decodeTableWord 16 0b0000000111001000 = some (.driveA 200 []) := by decide
theorem test_word_driveA_least : decodeTableWord 16 0b0000000100000000 = some (.driveA 0 []) := by decide
theorem test_word_driveB_canonical : decodeTableWord 16 0b0000000011001000 = some (.driveB 200 0 []) := by
  decide
theorem test_word_driveB_bits7and0 : decodeTableWord 16 0b1000000110000000 = some (.driveB 128 129 []) := by
  decide
theorem test_word_len1 : decodeTableWord 8 0b10010110 = some (.malformedLen1 150) := by decide
theorem test_word_len0 : decodeTableWord 0 0 = some .malformedLen0 := by decide
theorem test_tail_one_is_ignored : decodeBuffer [5, 0, 1] = .driveB 5 0 [1] := by decide
theorem test_event_connect : decodeEvent .connect = .connect := by decide
theorem test_event_disconnect : decodeEvent .disconnect = .disconnect := by decide
theorem test_setIntensity_has_no_encoding : encode (.setIntensity .directionA 7) = none := by decide
theorem test_decoder_sel3 : (decodeCommand [128, 3]).toOption = some ⟨128, .b⟩ := by decide
theorem test_pattern_129 :
    driveBDisjointPatterns.map (·.fits (packWord 128 129)) =
      [false, true, false, false, false, false, false, false] := by decide
theorem test_disassemble_sel : disassemble (.write [128, 129]) = .driveBSel 128 129 := by decide
theorem test_disassemble_tail : disassemble (.write [1, 1, 1]) = .raw [1, 1, 1] := by decide
theorem test_line_text : (Line.driveBSel 128 129).text = "DRIVE_B 128, 129" := by decide

/-! ## Well-formedness -/

theorem test_wf_refuses_driveB_sel_one : (Instr.driveB 5 1 []).wf = false := by decide
theorem test_wf_refuses_line_sel_one : (Line.driveBSel 5 1).wf = false := by decide

/-! ## Steps, from tables 1.1 and 2.2 to 2.6 -/

theorem test_driveA_reversal_overlaps :
    triplesOf (exec (.driveA 255 []) (idleAt 255 0 255)) =
      some [⟨255, 0, 255⟩, ⟨255, 255, 255⟩, ⟨255, 255, 0⟩] := by decide
theorem test_driveA_stops_A_at_write_2 :
    triplesOf (exec (.driveA 0 []) (idleAt 37 37 0)) = some [⟨0, 37, 0⟩, ⟨0, 0, 0⟩, ⟨0, 0, 0⟩] := by
  decide
theorem test_driveB_zeroes_A_first :
    triplesOf (exec (.driveB 128 3 []) (idleAt 10 10 0)) =
      some [⟨128, 10, 0⟩, ⟨128, 0, 0⟩, ⟨128, 0, 128⟩] := by decide
theorem test_driveB_unreachable_start :
    levelsOf (exec (.driveB 3 0 []) (idleAt 5 7 9)) = some ⟨3, 0, 3⟩ := by decide
theorem test_malformedLen1_holds_state :
    levelsOf (exec (.malformedLen1 150) (idleAt 200 200 0)) = some ⟨200, 200, 0⟩ := by decide
theorem test_malformedLen1_reports :
    reportsOf (exec (.malformedLen1 0) (idleAt 200 200 0)) = some [.malformedCommand] := by decide
theorem test_malformedLen0_holds_state :
    levelsOf (exec .malformedLen0 (idleAt 9 9 0)) = some ⟨9, 9, 0⟩ := by decide
theorem test_malformedLen0_reports :
    reportsOf (exec .malformedLen0 (idleAt 9 9 0)) = some [.malformedCommand] := by decide
theorem test_connect_restores_nothing :
    levelsOf (exec .connect (idleAt 90 0 90)) = some ⟨90, 0, 90⟩ := by decide
theorem test_disconnect_keeps_running :
    levelsOf (exec .disconnect (idleAt 200 200 0)) = some ⟨200, 200, 0⟩ := by decide
theorem test_setIntensity_no_exclusion :
    levelsOf (exec (.setIntensity .directionA 90) (idleAt 90 0 90)) = some ⟨90, 90, 90⟩ := by decide
theorem test_setIntensity_any_start :
    levelsOf (exec (.setIntensity .directionB 254) (idleAt 1 2 3)) = some ⟨1, 2, 254⟩ := by decide
theorem test_first_event_after_reset :
    triplesOf (step (State.reset.withFetchWord 16 0x0107)) =
      some [⟨7, 0, 0⟩, ⟨7, 7, 0⟩, ⟨7, 7, 0⟩] := by decide
theorem test_internal_step_writes_B :
    levelsOf (step (applyingAt 2)) = some ⟨9, 9, 0⟩ := by decide

/-! ## Witnesses: the hypotheses of each statement, met together -/

theorem witness_StepRunsDecodedInstruction :
    (State.reset.withInbox [.write [7, 1], .connect]).phase = .idle ∧
    (State.reset.withInbox [.write [7, 1], .connect]).inbox = .write [7, 1] :: [.connect] ∧
    (idleAt 9 9 0).phase = .idle ∧ (idleAt 9 9 0).inbox = [] ∧ (idleAt 9 9 0).later = some 0 ∧
    (applyingAt 2).phase = .applying 2 := by decide

theorem witness_WireEncodingRoundTrip :
    (Instr.driveB 5 0 [1]).wf = true ∧ encode (.driveB 5 0 [1]) = some (.write [5, 0, 1]) ∧
    (Instr.driveB 5 2 []).wf = true ∧ (Instr.driveA 5 []).wf = true := by decide

theorem witness_LengthSelectsFormat :
    2 ≤ ([0, 0] : Buffer).length ∧ ([0] : Buffer).length = 1 ∧ ([] : Buffer).length = 0 := by decide

theorem witness_DecoderResult :
    ([] : Buffer).length < 2 ∧ ([1] : Buffer).length < 2 ∧ (0 : Byte) ≠ 1 ∧ (2 : Byte) ≠ 1 ∧
    (255 : Byte) ≠ 1 := by decide

theorem witness_OpcodeTableSelectsTheRow : (0 : Byte) ≠ 1 ∧ (2 : Byte) ≠ 1 ∧ (255 : Byte) ≠ 1 := by decide

theorem witness_AssemblerRoundTrip :
    (Line.driveBSel 5 2).wf = true ∧ (2 : Byte) ≠ 0 ∧ ([] : Buffer).length ≠ 2 ∧
    ([1] : Buffer).length ≠ 2 ∧ ([1, 1, 1] : Buffer).length ≠ 2 := by decide

theorem witness_DriveADrivesDirectionA : (idleAt 90 0 90).phase = .idle := by decide

theorem witness_DriveBDrivesDirectionB :
    (0 : Byte) ≠ 1 ∧ (2 : Byte) ≠ 1 ∧ (idleAt 10 10 0).phase = .idle := by decide

theorem witness_ValidCommandIsLatched :
    (idleAt 10 10 0).phase = .idle ∧ (applyingAt 0).phase = .applying 0 ∧
    (applyingAt 2).phase = .applying 2 := by decide

theorem witness_MalformedCommandIsReportedOnly : (idleAt 200 200 0).phase = .idle := by decide

theorem witness_DriverKeepsOnlyLastLevels :
    (∀ c, lastLevel c [(.directionA, 9), (.directionA, 4)] = lastLevel c [(.directionA, 4)]) ∧
    (∃ t, performCalls [(.directionA, 9), (.directionA, 4)] State.reset = .next t) ∧
    (∃ t, performCalls [(.directionA, 4)] State.reset = .next t) :=
  ⟨by intro c; cases c <;> decide, ⟨_, rfl⟩, ⟨_, rfl⟩⟩

theorem witness_InstructionFrame :
    (∃ t, exec (.driveA 9 []) (idleAt 1 0 1) = .next t) ∧
    (∃ t, exec (.setIntensity .indicator 9) (applyingAt 1) = .next t) := ⟨⟨_, rfl⟩, ⟨_, rfl⟩⟩

theorem witness_OverlappingWriteStops :
    (applyingAt 0).phase = .applying 0 ∧ (applyingAt 2).phase = .applying 2 := by decide

theorem witness_ValidCommandEndState :
    2 ≤ ([7, 1] : Buffer).length ∧ 2 ≤ ([7, 0, 1] : Buffer).length ∧ (idleAt 5 7 9).phase = .idle := by
  decide

theorem witness_ThreeWritesInOrder :
    (idleAt 37 37 0).phase = .idle ∧ ([] : Buffer).length < 2 ∧ ([37] : Buffer).length < 2 := by decide

theorem witness_OnlyShortBuffersRaise : (idleAt 9 9 0).phase = .idle := by decide

theorem witness_DegenerateEncodings :
    (0 : Byte) ≠ 1 ∧ (255 : Byte) ≠ 1 ∧ (idleAt 9 9 0).phase = .idle ∧
    (∃ t, exec (decodeBuffer [7, 1]) (idleAt 9 9 0) = .next t) ∧
    (∃ t, exec (decodeBuffer [7, 0]) State.reset = .next t) :=
  ⟨by decide, by decide, rfl, ⟨_, rfl⟩, ⟨_, rfl⟩⟩

theorem witness_StateMachineTransitions :
    (State.reset.withInbox [.write [1]]).phase = .idle ∧
    (State.reset.withInbox [.write [1]]).inbox = .write [1] :: [] ∧ ([1] : Buffer).length < 2 ∧
    (State.reset.withInbox [.write []]).inbox = .write [] :: [] ∧ ([] : Buffer).length < 2 ∧
    (State.reset.withInbox [.write [7, 1]]).inbox = .write (7 :: 1 :: []) :: [] ∧
    (applyingAt 0).phase = .applying 0 ∧ (applyingAt 1).phase = .applying 1 ∧
    (9 : Byte) = (if (applyingAt 1).cmdDir = .a then (applyingAt 1).cmdI else 0) ∧
    (applyingAt 2).phase = .applying 2 ∧
    (0 : Byte) = (if (applyingAt 2).cmdDir = .b then (applyingAt 2).cmdI else 0) ∧
    (State.reset.withInbox [.connect]).inbox = .connect :: [] ∧
    (State.reset.withInbox [.disconnect]).inbox = .disconnect :: [] := by decide

theorem witness_ApplyingCompletes :
    (applyingAt 0).phase = .applying 0 ∧ (applyingAt 1).phase = .applying 1 ∧
    (applyingAt 2).phase = .applying 2 := by decide

theorem witness_NothingIsFatal :
    (idleAt 9 9 0).phase = .idle ∧ ∃ t, runSteps 0 (idleAt 9 9 0) = .next t := ⟨rfl, _, rfl⟩

theorem witness_IdleHoldsItsState :
    ((idleAt 200 200 0).withInbox []).phase = .idle ∧ ((idleAt 200 200 0).withInbox []).inbox = [] ∧
    ((idleAt 200 200 0).withInbox []).later = none := by decide

theorem witness_StepKeepsInvariant :
    MachineInv (idleAt 9 9 0) ∧ (∃ t, step ((idleAt 9 9 0).withInbox [.write [4, 0]]) = .next t) ∧
    MachineInv ((idleAt 9 9 0).withInbox [.write [4, 0]]) ∧
    MachineInv (applyingAt 2) ∧ (∃ t, step (applyingAt 2) = .next t) :=
  ⟨by decide, ⟨_, rfl⟩, by decide, by decide, ⟨_, rfl⟩⟩

theorem witness_QuiescentStatesHaveOneDirection :
    ∃ t, runSteps 1 (State.reset.withInbox [.write [90, 0]]) = .next t ∧ t.phase = .idle :=
  ⟨_, exists_of_stateOf (by rfl), rfl⟩

theorem witness_InfiniteRunIsEveryFiniteRun : (idleAt 9 9 0).phase = .idle := by decide

theorem witness_InfiniteRunsNeverStop :
    (idleAt 90 0 90).phase = .idle ∧ (idleAt 90 0 90).levels.Quiescent := by decide

theorem witness_StepsRunTheLaterEvents :
    (idleAt 9 9 0).phase = .idle ∧ (idleAt 9 9 0).inbox = [] ∧ (idleAt 9 9 0).later = some 0 := by decide

theorem witness_LastValidCommandDecidesLevels : (idleAt 9 9 0).phase = .idle := by decide

theorem witness_EndLevelsForgetTheStart :
    (idleAt 9 9 0).phase = .idle ∧ State.reset.phase = .idle ∧
    (∃ e ∈ [Event.write [7, 1]], e.command ≠ none) ∧
    (∃ t, runEvents (idleAt 9 9 0) [.write [7, 1]] = .next t) ∧
    (∃ t, runEvents State.reset [.write [7, 1]] = .next t) :=
  ⟨rfl, rfl, ⟨.write [7, 1], by simp, by decide⟩, ⟨_, exists_of_stateOf (by rfl)⟩,
    ⟨_, exists_of_stateOf (by rfl)⟩⟩

theorem witness_LinkDropsChangeNoRun : (idleAt 200 200 0).phase = .idle := by decide

theorem witness_MalformedWritesInARow :
    (idleAt 200 200 0).phase = .idle ∧ ∀ b ∈ [[150], ([] : Buffer)], b.length < 2 := by decide

theorem witness_DisconnectNeverStopsTheMotor : (idleAt 200 200 0).phase = .idle := by decide

theorem witness_OverlapExactlyOnReversalToA :
    (idleAt 255 0 255).phase = .idle ∧ (0 : Byte) ≠ 1 ∧
    ((idleAt 255 0 255).levels.dirA = 0 ∨ (idleAt 255 0 255).levels.dirB = 0) := by decide

theorem witness_DisciplinedSenderNeverOverlaps :
    (idleAt 90 0 90).phase = .idle ∧ (idleAt 90 0 90).levels.overlap = false ∧
    Disciplined (idleAt 90 0 90).levels [.write [0, 0], .write [90, 1], .write [90, 0]] = true := by decide

theorem witness_NoRunEverOverlaps :
    ∃ t, runEvents State.reset [.write [90, 0]] = .next t ∧ ⟨90, 0, 90⟩ ∈ t.triples :=
  ⟨_, exists_of_stateOf (by rfl), by decide⟩

theorem witness_OutputAtTheTwoGivenLevels :
    (idleAt 255 0 255).levels.get .directionA = 0 ∧
    (idleAt 255 0 255).levels.get .directionB = 255 := by decide

/-- `DRIVE_A` while B runs is what the sender's discipline excludes (R147). -/
theorem test_discipline_refuses_direct_reversal :
    Disciplined ⟨90, 0, 90⟩ [.write [90, 1]] = false := by decide

end Sys2Proof.Tests
end

/-! # What an event does

In Idle every event is handled to completion and answers next (R47, R90, R125), so its effect is a total function of
the state, `handle`. Runs are then folds of `handle`, and the pending events are a frame around them. -/

namespace Sys2Proof

theorem decodeBuffer_wf : ∀ b : Buffer, (decodeBuffer b).wf = true
  | [] => rfl
  | [_] => rfl
  | n :: sel :: tail => by
    by_cases h : sel = 1
    · rw [h, decodeBuffer_selOne]; rfl
    · rw [decodeBuffer_selOther n tail h]
      simpa [Instr.wf, Config.dirACode] using h

/-- The decoder's side of the wire encoding: every event has a row (R66, R67). -/
theorem decodeEvent_wf : ∀ e : Event, (decodeEvent e).wf = true
  | .write b => decodeBuffer_wf b
  | .connect => rfl
  | .disconnect => rfl

theorem Event.command_write_short {b : Buffer} (h : b.length < 2) : (Event.write b).command = none := by
  simp [Event.command, decodeCommand_short h, Except.toOption]

@[simp] theorem Event.command_write_cons_cons (n sel : Byte) (tail : List Byte) :
    (Event.write (n :: sel :: tail)).command = some ⟨n, directionOf sel⟩ := by
  simp [Event.command, Except.toOption]

/-- The last valid command of a sequence is that of its tail, else that of its head (R102). -/
theorem lastCommand_cons (e : Event) (es : List Event) :
    lastCommand (e :: es) = (lastCommand es).or e.command := by
  cases h : lastCommand es <;> simp [lastCommand, h]

end Sys2Proof

namespace Sys2Proof.Machine

/-- A command ends in the quiescent form, in either direction (R34, R96). -/
theorem endLevels_quiescent (c : Command) : c.endLevels.Quiescent := by
  rcases c with ⟨n, _ | _⟩
  · exact .inl ⟨rfl, rfl⟩
  · exact .inr ⟨rfl, rfl⟩

/-! ## The instructions of the events, in Idle -/

section ExecIdle
variable {s : State} (h : s.phase = .idle)
include h

theorem exec_driveA_idle (n : Byte) (tail : List Byte) :
    exec (.driveA n tail) s = .next (applyCommand ⟨n, .a⟩ s) := handleWrite_idle h

theorem exec_driveB_idle (n sel : Byte) (tail : List Byte) :
    exec (.driveB n sel tail) s = .next (applyCommand ⟨n, .b⟩ s) := handleWrite_idle h

theorem exec_malformedLen1_idle (v : Byte) :
    exec (.malformedLen1 v) s = .next (raiseMalformed s) := handleWrite_idle h

theorem exec_malformedLen0_idle : exec .malformedLen0 s = .next (raiseMalformed s) :=
  handleWrite_idle h

end ExecIdle

/-- A driver call completes in every state (R80). -/
theorem exec_setIntensity (c : Channel) (v : Byte) (s : State) :
    exec (.setIntensity c v) s = .next (setIntensity c v s) := rfl

/-! ## The effect of one event -/

/-- The effect of an event handled in Idle: a valid command is applied, any other write is reported, and a link
event does nothing (R90, R110, R111, R122). -/
def handle (e : Event) (s : State) : State :=
  match e.command with
  | some c => applyCommand c s
  | none => if e.isWrite then raiseMalformed s else s

theorem handle_of_command {e : Event} {c : Command} (h : e.command = some c) (s : State) :
    handle e s = applyCommand c s := by
  simp [handle, h]

theorem handle_write_short {b : Buffer} (h : b.length < 2) (s : State) :
    handle (.write b) s = raiseMalformed s := by
  simp [handle, Event.command_write_short h, Event.isWrite]

/-- The rows of the opcode map and the algorithm's decoder give a buffer one effect (R66, R90, R94). -/
theorem exec_decodeBuffer_idle {s : State} (h : s.phase = .idle) :
    ∀ b : Buffer, exec (decodeBuffer b) s = .next (handle (.write b) s)
  | [] => by rw [decodeBuffer_nil, exec_malformedLen0_idle h, handle_write_short (by simp)]
  | [v] => by rw [decodeBuffer_one, exec_malformedLen1_idle h, handle_write_short (by simp)]
  | n :: sel :: tail => by
    rw [handle_of_command (Event.command_write_cons_cons n sel tail)]
    by_cases hsel : sel = 1
    · rw [hsel, decodeBuffer_selOne, directionOf_one, exec_driveA_idle h]
    · rw [decodeBuffer_selOther n tail hsel, directionOf_other hsel, exec_driveB_idle h]

/-- In Idle the instruction of every event completes, with the event's effect (R47, R125). -/
theorem exec_decodeEvent_idle {s : State} (h : s.phase = .idle) (e : Event) :
    exec (decodeEvent e) s = .next (handle e s) := by
  cases e with
  | write b => exact exec_decodeBuffer_idle h b
  | connect => rfl
  | disconnect => rfl

theorem handle_phase {s : State} (h : s.phase = .idle) (e : Event) : (handle e s).phase = .idle := by
  unfold handle
  split
  · rw [applyCommand_eq]
  · split
    · exact h
    · exact h

/-- The triple after an event is the command's, if the event carries one, else the triple before (R96, R122). -/
theorem handle_levels (e : Event) (s : State) :
    (handle e s).levels = e.command.elim s.levels Command.endLevels := by
  cases hc : e.command with
  | some c => rw [handle_of_command hc, applyCommand_eq, Option.elim_some, endLevels_eq]
  | none =>
    simp only [handle, hc, Option.elim_none]
    split <;> rfl

/-! ## The pending events are a frame -/

/-- The state with other events to be delivered, now and later; `withInbox` is the case without later ones. -/
def State.withPending (s : State) (es : List Event) (later : Option Nat) : State :=
  { s with inbox := es, later := later }

theorem withPending_self {s : State} {es : List Event} {later : Option Nat} (hi : s.inbox = es)
    (hl : s.later = later) : s.withPending es later = s := by
  rw [← hi, ← hl]; rfl

/-- Handling an event reads and changes no pending event (R30, R47). -/
theorem handle_withPending (e : Event) (s : State) (es : List Event) (later : Option Nat) :
    handle e (s.withPending es later) = (handle e s).withPending es later := by
  unfold handle
  split
  · rw [applyCommand_eq, applyCommand_eq]; rfl
  · split <;> rfl

theorem step_withInbox_cons {s : State} (h : s.phase = .idle) (e : Event) (es : List Event) :
    step (s.withInbox (e :: es)) = .next ((handle e s).withInbox es) := by
  calc step (s.withInbox (e :: es))
      = exec (decodeEvent e) (s.withInbox es) := step_event (s := s.withInbox (e :: es)) h rfl
    _ = .next (handle e (s.withInbox es)) := exec_decodeEvent_idle (s := s.withInbox es) h e
    _ = .next ((handle e s).withInbox es) := congrArg _ (handle_withPending e s es none)

theorem step_withPending_arrival {s : State} (h : s.phase = .idle) (k : Nat) :
    step (s.withPending [] (some k)) =
      .next ((handle (Config.arrival k) s).withPending [] (some (k + 1))) := by
  calc step (s.withPending [] (some k))
      = exec (decodeEvent (Config.arrival k)) (s.withPending [] (some (k + 1))) :=
        step_arrival (s := s.withPending [] (some k)) h rfl rfl
    _ = .next (handle (Config.arrival k) (s.withPending [] (some (k + 1)))) :=
        exec_decodeEvent_idle (s := s.withPending [] (some (k + 1))) h _
    _ = .next ((handle (Config.arrival k) s).withPending [] (some (k + 1))) :=
        congrArg _ (handle_withPending _ s [] (some (k + 1)))

/-! ## Runs are folds of the events' effects -/

/-- The effect of a sequence of events, each handled to completion before the next (R47). -/
def handleAll (s : State) (es : List Event) : State := es.foldl (fun t e => handle e t) s

@[simp] theorem handleAll_nil (s : State) : handleAll s [] = s := rfl

@[simp] theorem handleAll_cons (s : State) (e : Event) (es : List Event) :
    handleAll s (e :: es) = handleAll (handle e s) es := rfl

theorem handleAll_concat (s : State) (es : List Event) (e : Event) :
    handleAll s (es ++ [e]) = handle e (handleAll s es) := by
  simp [handleAll]

/-- The effect of the first `n + 1` events of an infinite sequence: the last of them is handled after the others. -/
theorem handleAll_range_succ (s : State) (ev : Nat → Event) (n : Nat) :
    handleAll s ((List.range (n + 1)).map ev) = handle (ev n) (handleAll s ((List.range n).map ev)) := by
  rw [List.range_succ, List.map_append, List.map_singleton, handleAll_concat]

theorem handleAll_phase {s : State} (h : s.phase = .idle) (es : List Event) :
    (handleAll s es).phase = .idle := by
  induction es generalizing s with
  | nil => exact h
  | cons e es ih => exact ih (handle_phase h e)

/-- The last valid command decides the triple (R102). -/
theorem handleAll_levels (s : State) (es : List Event) :
    (handleAll s es).levels = (lastCommand es).elim s.levels Command.endLevels := by
  induction es generalizing s with
  | nil => rfl
  | cons e es ih =>
    rw [handleAll_cons, ih, handle_levels, lastCommand_cons]
    cases lastCommand es <;> rfl

theorem handleAll_quiescent {s : State} (h : s.levels.Quiescent) (es : List Event) :
    (handleAll s es).levels.Quiescent := by
  rw [handleAll_levels]
  cases lastCommand es with
  | none => exact h
  | some c => exact endLevels_quiescent c

/-- A finite run completes and is the fold of its events' effects (R13, R47). -/
theorem runEvents_eq {s : State} (h : s.phase = .idle) (es : List Event) :
    runEvents s es = .next ((handleAll s es).withInbox []) := by
  induction es generalizing s with
  | nil => rfl
  | cons e es ih =>
    calc runEvents s (e :: es)
        = runEvents (handle e s) es := runSteps_succ_of_next _ (step_withInbox_cons h e es)
      _ = .next ((handleAll s (e :: es)).withInbox []) := ih (handle_phase h e)

/-- An infinite run never stops, and after `n` events is the fold of their effects (R13, R47). -/
theorem runStream_eq {s : State} (h : s.phase = .idle) (ev : Nat → Event) (n : Nat) :
    runStream s ev n = .next ((handleAll s ((List.range n).map ev)).withInbox []) := by
  induction n with
  | zero => rfl
  | succ n ih =>
    rw [runStream_succ_of_next ih, handleAll_range_succ]
    exact step_withInbox_cons (handleAll_phase h _) (ev n) []

/-- The machine's own steps past the inbox are the fold of the free events' effects (R13; log 2). -/
theorem runSteps_withPending_arrival {s : State} (h : s.phase = .idle) (k n : Nat) :
    runSteps n (s.withPending [] (some k)) =
      .next ((handleAll s ((List.range n).map fun i => Config.arrival (k + i))).withPending []
        (some (k + n))) := by
  induction n generalizing s k with
  | zero => rfl
  | succ n ih =>
    rw [runSteps_succ_of_next n (step_withPending_arrival h k), ih (handle_phase h _),
      List.range_succ_eq_map, List.map_cons, List.map_map, handleAll_cons]
    simp [Function.comp_def, Nat.add_assoc, Nat.add_comm 1]

/-! ## An infinite run that never settles -/

/-- The sender who raises the intensity of Direction A by one at each event, from 255 back to 0. -/
def risingSender (n : Nat) : Event := .write [BitVec.ofNat 8 (n + 1), 1]

theorem handleAll_risingSender_levels (n : Nat) :
    (handleAll State.reset ((List.range n).map risingSender)).levels =
      ⟨BitVec.ofNat 8 n, BitVec.ofNat 8 n, 0⟩ := by
  cases n with
  | zero => rfl
  | succ n =>
    rw [handleAll_range_succ, handle_levels, risingSender, Event.command_write_cons_cons]
    rfl

theorem ofNat_ne_ofNat_succ (n : Nat) : BitVec.ofNat 8 n ≠ BitVec.ofNat 8 (n + 1) := by
  bv_omega

/-! ## The statements -/

/-- Settles O1: the step lemmas, with every event's instruction well formed. -/
theorem stepRunsDecodedInstruction : Obligations.StepRunsDecodedInstruction := by
  refine ⟨fun s e rest h hi => ⟨decodeEvent_wf e, step_event h hi⟩,
    fun s k h hi hl => ⟨decodeEvent_wf _, step_arrival h hi hl⟩, fun s k h => ?_⟩
  refine ⟨_, exec_setIntensity _ _ s, ?_⟩
  rw [step_applying h, applyNext_applying h]

/-- Settles O42: both runs are the same fold of the events' effects. -/
theorem infiniteRunIsEveryFiniteRun : Obligations.InfiniteRunIsEveryFiniteRun := by
  intro ev n s h
  rw [runStream_eq h, runEvents_eq h]

/-- Settles O43: an infinite run is a fold of the events' effects, each of which keeps Idle and the quiescent form;
`risingSender` is the run that never settles. -/
theorem infiniteRunsNeverStop : Obligations.InfiniteRunsNeverStop := by
  refine ⟨fun ev n s h hq => ?_, risingSender, fun n => ?_⟩
  · refine ⟨_, runStream_eq h ev n, handleAll_phase h _, handleAll_quiescent hq _, ?_⟩
    rw [withInbox_levels, handleAll_levels]
    cases lastCommand ((List.range n).map ev) <;> rfl
  · refine ⟨_, _, runStream_eq rfl risingSender n, runStream_eq rfl risingSender (n + 1), ?_⟩
    rw [withInbox_levels, withInbox_levels, handleAll_risingSender_levels,
      handleAll_risingSender_levels]
    intro heq
    exact ofNat_ne_ofNat_succ n (congrArg Levels.indicator heq)

/-- Settles O44: the machine's steps past the inbox and the infinite run over the free events are one fold, but
for the number of the next event. -/
theorem stepsRunTheLaterEvents : Obligations.StepsRunTheLaterEvents := by
  intro n k s h hi hl
  refine ⟨_, runStream_eq h _ n, ?_⟩
  calc runSteps n s
      = runSteps n (s.withPending [] (some k)) := by rw [withPending_self hi hl]
    _ = _ := runSteps_withPending_arrival h k n

end Sys2Proof.Machine

/-! # What the state keeps

The internal transitions and the instructions as rules over the state's fields, what one step from Idle can do, and the
invariant along every run (R34, R101). -/

namespace Sys2Proof

@[simp] theorem Config.dutyOfLevel_zero : Config.dutyOfLevel 0 = .off := rfl

@[simp] theorem Config.dutyOfLevel_max : Config.dutyOfLevel 255 = .full := rfl

/-- The decoded direction, with the selector's code written out (R64). -/
theorem directionOf_eq_ite (sel : Byte) : directionOf sel = if sel = 1 then .a else .b := rfl

end Sys2Proof

namespace Sys2Proof.Machine

/-! ## The operands of the direction writes -/

theorem levelA_eq_ite (c : Command) : levelA c = if c.dir = .a then c.intensity else 0 := by
  rcases c with ⟨n, _ | _⟩ <;> rfl

theorem levelB_eq_ite (c : Command) : levelB c = if c.dir = .b then c.intensity else 0 := by
  rcases c with ⟨n, _ | _⟩ <;> rfl

/-! ## The internal transitions -/

section ApplyNext
variable {s : State}

/-! An internal transition keeps the latch and the pending events (R25, R101); out of Idle there is none. -/

@[simp] theorem applyNext_cmdI (s : State) : (applyNext s).cmdI = s.cmdI := by
  unfold applyNext; split <;> rfl

@[simp] theorem applyNext_cmdDir (s : State) : (applyNext s).cmdDir = s.cmdDir := by
  unfold applyNext; split <;> rfl

@[simp] theorem applyNext_inbox (s : State) : (applyNext s).inbox = s.inbox := by
  unfold applyNext; split <;> rfl

@[simp] theorem applyNext_later (s : State) : (applyNext s).later = s.later := by
  unfold applyNext; split <;> rfl

@[simp] theorem applyNext_command (s : State) : (applyNext s).command = s.command := by
  simp [State.command]

theorem applyNext_phase {k : Fin 3} (h : s.phase = .applying k) :
    (applyNext s).phase = afterWrite k := by
  rw [applyNext_applying h]

/-- The one write of an internal transition (R101). -/
theorem applyNext_levels {k : Fin 3} (h : s.phase = .applying k) :
    (applyNext s).levels = s.levels.set (writeChannel k) (writeLevel k s.command) := by
  rw [applyNext_applying h, setIntensity_levels]

theorem applyNext_levels_zero (h : s.phase = .applying 0) :
    (applyNext s).levels = ⟨s.cmdI, s.levels.dirA, s.levels.dirB⟩ := applyNext_levels h

theorem applyNext_levels_one (h : s.phase = .applying 1) :
    (applyNext s).levels = ⟨s.levels.indicator, levelA s.command, s.levels.dirB⟩ :=
  applyNext_levels h

theorem applyNext_levels_two (h : s.phase = .applying 2) :
    (applyNext s).levels = ⟨s.levels.indicator, s.levels.dirA, levelB s.command⟩ :=
  applyNext_levels h

theorem runSteps_succ_applying {k : Fin 3} (h : s.phase = .applying k) (n : Nat) :
    runSteps (n + 1) s = runSteps n (applyNext s) :=
  runSteps_succ_of_next n (step_applying h)

/-! The steps from `Applying(k)` to Idle are the writes that are left (R101). -/

theorem runSteps_one_applying_two (h : s.phase = .applying 2) :
    runSteps 1 s = .next (applyNext s) := runSteps_succ_applying h 0

theorem runSteps_two_applying_one (h : s.phase = .applying 1) :
    runSteps 2 s = .next (applyNext (applyNext s)) :=
  (runSteps_succ_applying h 1).trans (runSteps_one_applying_two (applyNext_phase h))

theorem runSteps_three_applying_zero (h : s.phase = .applying 0) :
    runSteps 3 s = .next (applyNext (applyNext (applyNext s))) :=
  (runSteps_succ_applying h 2).trans (runSteps_two_applying_one (applyNext_phase h))

end ApplyNext

/-! ## The frame of an instruction -/

/-- `t` has the pending events and the phase of `s`, and the outputs of `s` with new ones after them. -/
structure Framed (s t : State) : Prop where
  inbox : t.inbox = s.inbox
  later : t.later = s.later
  phase : t.phase = s.phase
  out : ∃ new, t.out = s.out ++ new

theorem framed_refl (s : State) : Framed s s := ⟨rfl, rfl, rfl, [], (List.append_nil _).symm⟩

theorem framed_setIntensity (c : Channel) (v : Byte) (s : State) : Framed s (setIntensity c v s) :=
  ⟨rfl, rfl, rfl, _, rfl⟩

theorem framed_raiseMalformed (s : State) : Framed s (raiseMalformed s) := ⟨rfl, rfl, rfl, _, rfl⟩

/-- A whole command passes through Applying and ends in Idle, where alone it begins. -/
theorem framed_applyCommand {s : State} (h : s.phase = .idle) (c : Command) :
    Framed s (applyCommand c s) := by
  rw [applyCommand_eq]
  exact ⟨rfl, rfl, h.symm, _, rfl⟩

theorem framed_handleWrite {s a t : State} (ha : s.phase = .idle → Framed s a)
    (h : handleWrite s a = .next t) : Framed s t := by
  obtain ⟨hidle, rfl⟩ := handleWrite_next h
  exact ha hidle

theorem framed_exec {i : Instr} {s t : State} (h : exec i s = .next t) : Framed s t := by
  cases i with
  | driveA n tail => exact framed_handleWrite (framed_applyCommand · _) h
  | driveB n sel tail => exact framed_handleWrite (framed_applyCommand · _) h
  | malformedLen1 v => exact framed_handleWrite (fun _ => framed_raiseMalformed s) h
  | malformedLen0 => exact framed_handleWrite (fun _ => framed_raiseMalformed s) h
  | connect => cases h; exact framed_refl s
  | disconnect => cases h; exact framed_refl s
  | setIntensity c v => cases h; exact framed_setIntensity c v s

/-! ## What one step from Idle can do -/

/-- Taking an event touches nothing but the pending events (R13, R47). -/
theorem nextEvent_eq_withPending {s s' : State} {e : Event} (h : nextEvent s = some (e, s')) :
    ∃ es later, s' = s.withPending es later := by
  unfold nextEvent at h
  split at h
  · cases h
    exact ⟨_, _, rfl⟩
  · split at h
    · cases h
      exact ⟨_, _, rfl⟩
    · cases h

/-- From Idle a step holds the state, with nothing to deliver, or is the effect of the next event (R47, R136). -/
theorem step_idle_cases {s t : State} (h : s.phase = .idle) (hs : step s = .next t) :
    (nextEvent s = none ∧ t = s) ∨
      ∃ e es later, nextEvent s = some (e, s.withPending es later) ∧
        t = (handle e s).withPending es later := by
  cases hn : nextEvent s with
  | none =>
    left
    have hstay : step s = .next s := by simp [step, fetch_idle h, hn]
    rw [hstay] at hs
    cases hs
    exact ⟨rfl, rfl⟩
  | some p =>
    right
    obtain ⟨e, s'⟩ := p
    obtain ⟨es, later, rfl⟩ := nextEvent_eq_withPending hn
    rw [step_idle h hn, exec_decodeEvent_idle (s := s.withPending es later) h,
      handle_withPending] at hs
    cases hs
    exact ⟨e, es, later, rfl, rfl⟩

/-! ## The invariant -/

theorem handle_quiescent {s : State} (h : s.levels.Quiescent) (e : Event) :
    (handle e s).levels.Quiescent := handleAll_quiescent h [e]

theorem machineInv_of_idle {s : State} (h : s.phase = .idle) (hq : s.levels.Quiescent) :
    MachineInv s := by
  simp [MachineInv, h, hq]

/-- From Idle a step ends in Idle, in the quiescent form of before or of a command's end (R34, R96). -/
theorem step_idle_keeps_machineInv {s t : State} (h : s.phase = .idle) (hq : s.levels.Quiescent)
    (hs : step s = .next t) : MachineInv t := by
  obtain ⟨-, rfl⟩ | ⟨e, es, later, -, rfl⟩ := step_idle_cases h hs
  · exact machineInv_of_idle h hq
  · exact machineInv_of_idle (s := (handle e s).withPending es later) (handle_phase h e)
      (handle_quiescent hq e)

/-- Each internal write adds the level the next phase asks for; the last one completes the command's end triple,
which is quiescent (R96, R101). -/
theorem applyNext_keeps_machineInv {s : State} {k : Fin 3} (h : s.phase = .applying k)
    (hinv : MachineInv s) : MachineInv (applyNext s) := by
  obtain ⟨-, hone, htwo⟩ := hinv
  match k, h with
  | 0, h =>
    have hphase : (applyNext s).phase = .applying 1 := applyNext_phase h
    simp [MachineInv, hphase, applyNext_levels_zero h]
  | 1, h =>
    have hphase : (applyNext s).phase = .applying 2 := applyNext_phase h
    simp [MachineInv, hphase, applyNext_levels_one h, hone h]
  | 2, h =>
    obtain ⟨hind, hdirA⟩ := htwo h
    have hend : (applyNext s).levels = s.command.endLevels := by
      rw [applyNext_levels_two h, hind, hdirA, endLevels_eq]
      rfl
    exact machineInv_of_idle (applyNext_phase h) (hend ▸ endLevels_quiescent s.command)

theorem step_keeps_machineInv {s t : State} (hinv : MachineInv s) (hs : step s = .next t) :
    MachineInv t := by
  cases h : s.phase with
  | idle => exact step_idle_keeps_machineInv h (hinv.1 h) hs
  | applying k =>
    rw [step_applying h] at hs
    cases hs
    exact applyNext_keeps_machineInv h hinv

/-- What every step keeps, every run keeps. -/
theorem runSteps_induction {P : State → Prop} (hstep : ∀ {s t}, P s → step s = .next t → P t) {n : Nat}
    {s t : State} (hs : P s) (hrun : runSteps n s = .next t) : P t := by
  induction n generalizing s with
  | zero => cases hrun; exact hs
  | succ n ih =>
    rw [runSteps_succ] at hrun
    cases hnext : step s with
    | next u => rw [hnext] at hrun; exact ih (hstep hs hnext) hrun
    | fault r => rw [hnext] at hrun; cases hrun
    | refused r => rw [hnext] at hrun; cases hrun

/-- Idle, with all three levels 0. -/
theorem machineInv_reset : MachineInv State.reset := machineInv_of_idle rfl (.inl ⟨rfl, rfl⟩)

/-- The invariant reads no pending event. -/
theorem machineInv_withInbox {s : State} (h : MachineInv s) (es : List Event) :
    MachineInv (s.withInbox es) := h

/-! ## The latch -/

/-- The state with another latched command (R25). -/
def State.withLatch (s : State) (i : Byte) (d : Direction) : State := { s with cmdI := i, cmdDir := d }

/-- A command overwrites the latch before it reads it (R25, R101). -/
theorem applyCommand_withLatch (c : Command) (s : State) (i : Byte) (d : Direction) :
    applyCommand c (s.withLatch i d) = applyCommand c s := by
  rw [applyCommand_eq, applyCommand_eq]
  rfl

/-- The latch an event begins with can reach only the latch it ends with. -/
theorem handle_withLatch (e : Event) (s : State) (i : Byte) (d : Direction) :
    ∃ i' d', handle e (s.withLatch i d) = (handle e s).withLatch i' d' := by
  cases hc : e.command with
  | some c =>
    rw [handle_of_command hc, handle_of_command hc, applyCommand_withLatch]
    exact ⟨_, _, rfl⟩
  | none =>
    refine ⟨i, d, ?_⟩
    simp only [handle, hc]
    split <;> rfl

/-! ## The statements of the state -/

/-- Settles O31: by the phase the step begins in. -/
theorem stepKeepsInvariant : Obligations.StepKeepsInvariant :=
  fun _ _ hinv hs => step_keeps_machineInv hinv hs

/-- Settles O13: a valid buffer's effect is a whole command, which begins with the latch; an internal step is
`applyNext`, which keeps it. -/
theorem validCommandIsLatched : Obligations.ValidCommandIsLatched := by
  refine ⟨fun n sel tail s h => ⟨_, exec_decodeBuffer_idle h _, ?_⟩, fun k s h =>
    ⟨_, step_applying h, applyNext_cmdI s, applyNext_cmdDir s⟩⟩
  rw [handle_of_command (Event.command_write_cons_cons n sel tail), applyCommand_eq]
  exact ⟨rfl, directionOf_eq_ite sel⟩

/-- Settles O19: by the instruction; a `Write` row completes in Idle only, where a command ends too. -/
theorem instructionFrame : Obligations.InstructionFrame := by
  intro i s t h
  obtain ⟨hinbox, hlater, hphase, hout⟩ := framed_exec h
  exact ⟨hinbox, hlater, hphase, hout⟩

/-- Settles O26: the internal steps that are left are the writes that are left. -/
theorem applyingCompletes : Obligations.ApplyingCompletes := by
  intro s k h
  match k, h with
  | 0, h =>
    have h1 : (applyNext s).phase = .applying 1 := applyNext_phase h
    have h2 : (applyNext (applyNext s)).phase = .applying 2 := applyNext_phase h1
    refine ⟨_, runSteps_three_applying_zero h, applyNext_phase h2, by simp, by simp, ?_⟩
    simp [applyNext_levels_two h2, applyNext_levels_one h1, applyNext_levels_zero h,
      levelA_eq_ite, levelB_eq_ite, State.command]
  | 1, h =>
    have h2 : (applyNext s).phase = .applying 2 := applyNext_phase h
    refine ⟨_, runSteps_two_applying_one h, applyNext_phase h2, by simp, by simp, ?_⟩
    simp [applyNext_levels_two h2, applyNext_levels_one h, levelA_eq_ite, levelB_eq_ite,
      State.command]
  | 2, h =>
    refine ⟨_, runSteps_one_applying_two h, applyNext_phase h, by simp, by simp, ?_⟩
    simp [applyNext_levels_two h, levelB_eq_ite, State.command]

/-- Settles O32: the invariant holds along every run from reset, and in Idle it is the quiescent form; the first
write of `DRIVE_A 90` after reset leaves that form. -/
theorem quiescentStatesHaveOneDirection : Obligations.QuiescentStatesHaveOneDirection := by
  refine ⟨fun n es t hrun hidle => ?_, [.write [90, 1]], _, ⟨90, 0, 0⟩, runEvents_eq rfl _,
    by decide, by decide⟩
  have hinv : MachineInv t :=
    runSteps_induction step_keeps_machineInv (machineInv_withInbox machineInv_reset es) hrun
  obtain ⟨ha, hb⟩ | ⟨ha, hb⟩ := hinv.1 hidle
  · simp [ha, hb]
  · simp [ha, hb]

/-- Settles O17: two driver calls, each of which writes its own register only. -/
theorem driverHoldsAnyPair : Obligations.DriverHoldsAnyPair := by
  intro va vb s
  refine ⟨_, _, exec_setIntensity .directionA va s, exec_setIntensity .directionB vb _, ?_⟩
  simp

/-- Settles O29: the first event is handled in Idle, and another latch changes only the latch. -/
theorem resetStateIsInert : Obligations.ResetStateIsInert := by
  refine ⟨rfl, rfl, rfl, rfl, fun e es => ⟨step_event rfl rfl, fun i d => ?_⟩⟩
  obtain ⟨i', d', hlatch⟩ := handle_withLatch e State.reset i d
  have hother : step ((State.reset.withLatch i d).withInbox (e :: es)) =
      .next (((handle e State.reset).withLatch i' d').withInbox es) := by
    rw [step_withInbox_cons rfl, hlatch]
  exact ⟨_, _, step_withInbox_cons rfl e es, hother, rfl, rfl, rfl, rfl, rfl⟩

/-- Settles O30: the base case of the invariant of every run. -/
theorem resetSatisfiesInvariant : Obligations.ResetSatisfiesInvariant := machineInv_reset

/-- Settles O41: the two levels at which the duty is given. -/
theorem outputAtTheTwoGivenLevels : Obligations.OutputAtTheTwoGivenLevels := by
  intro s c
  constructor
  · intro h
    rw [State.output, h, Config.dutyOfLevel_zero]
  · intro h
    rw [State.output, h, Config.dutyOfLevel_max]

end Sys2Proof.Machine

/-! # The encoding

Decoding and encoding as inverses, the packed word as its two bytes side by side, the patterns of the opcode table as
tests of the selector, the assembler, and what the bytes of a buffer decide about its outcome (R60 to R73). -/

namespace Sys2Proof

/-! ## Decoding and encoding -/

/-- Encoding gives back every byte the decoder read, the selector and the tail too (R66, R67). -/
theorem encode_decodeBuffer : ∀ b : Buffer, encode (decodeBuffer b) = some (.write b)
  | [] => rfl
  | [_] => rfl
  | n :: sel :: tail => by
    by_cases h : sel = 1
    · rw [h, decodeBuffer_selOne]; rfl
    · rw [decodeBuffer_selOther n tail h]; rfl

theorem encode_decodeEvent : ∀ e : Event, encode (decodeEvent e) = some e
  | .write b => encode_decodeBuffer b
  | .connect => rfl
  | .disconnect => rfl

/-- Well-formedness keeps a `DRIVE_B` from the selector of the `DRIVE_A` row (R66, R99). -/
theorem Instr.wf_driveB {n sel : Byte} {tail : List Byte} :
    (Instr.driveB n sel tail).wf = true ↔ sel ≠ 1 := by
  simp [Instr.wf, Config.dirACode]

/-- Decoding undoes encoding, by the row of the instruction; `SET_INTENSITY` has no event to decode (R68). -/
theorem decodeEvent_of_encode {i : Instr} {e : Event} (hwf : i.wf = true) (h : encode i = some e) :
    decodeEvent e = i := by
  cases i with
  | driveA n tail => cases h; exact decodeBuffer_selOne n tail
  | driveB n sel tail => cases h; exact decodeBuffer_selOther n tail (Instr.wf_driveB.mp hwf)
  | malformedLen1 v => cases h; rfl
  | malformedLen0 => cases h; rfl
  | connect => cases h; rfl
  | disconnect => cases h; rfl
  | setIntensity c v => cases h

/-! ## The formats -/

theorem Laws.FormatAgrees.all : ∀ i : Instr, Laws.FormatAgrees.Statement i
  | .driveA n tail => driveA n tail
  | .driveB n sel tail => driveB n sel tail
  | .malformedLen1 v => malformedLen1 v
  | .malformedLen0 => malformedLen0
  | .connect => connect
  | .disconnect => disconnect
  | .setIntensity c v => setIntensity c v

/-- The row an event decodes to is of the event's own format (R60). -/
theorem format_decodeEvent (e : Event) : (decodeEvent e).format = formatOfEvent e := by
  have h := Laws.FormatAgrees.all (decodeEvent e) (decodeEvent_wf e)
  rw [encode_decodeEvent] at h
  exact h.1.symm

theorem formatOfEvent_write2 : ∀ {b : Buffer}, 2 ≤ b.length → formatOfEvent (.write b) = .write2
  | _ :: _ :: _, _ => rfl

theorem formatOfEvent_write1 : ∀ {b : Buffer}, b.length = 1 → formatOfEvent (.write b) = .write1
  | [_], _ => rfl

theorem formatOfEvent_write0 : ∀ {b : Buffer}, b.length = 0 → formatOfEvent (.write b) = .write0
  | [], _ => rfl

/-- Of all instructions, well formed or not, only those of the `DRIVER` row have no event (R68). -/
theorem encode_eq_none_iff (i : Instr) : encode i = none ↔ i.format = .driver := by
  cases i with
  | setIntensity c v => exact ⟨fun _ => rfl, fun _ => rfl⟩
  | _ => exact ⟨nofun, nofun⟩

/-! ## The packed word -/

/-- The packed word is the selector's byte above the intensity's (R62). -/
theorem packWord_eq_append (n sel : Byte) : packWord n sel = sel ++ n :=
  BitVec.eq_of_getLsbD_eq fun i _ => by rw [getLsbD_packWord, BitVec.getLsbD_append]

@[simp] theorem wordIntensity_packWord (n sel : Byte) : wordIntensity (packWord n sel) = n := by
  rw [packWord_eq_append]
  exact BitVec.extractLsb'_append_eq_right

@[simp] theorem wordSel_packWord (n sel : Byte) : wordSel (packWord n sel) = sel := by
  rw [packWord_eq_append]
  exact BitVec.extractLsb'_append_eq_left

theorem toNat_packWord (n sel : Byte) : (packWord n sel).toNat = n.toNat + 256 * sel.toNat := by
  rw [packWord_eq_append, BitVec.toNat_append, ← Nat.shiftLeft_add_eq_or_of_lt n.isLt,
    Nat.shiftLeft_eq]
  omega

/-! ## The patterns of the opcode table -/

/-- The pattern that leaves the intensity free and tests the selector under a mask. Every pattern of R66 is one. -/
def selPattern (mask value : Byte) : Pattern := ⟨mask ++ (0 : Byte), value ++ (0 : Byte)⟩

/-- Whether a packed word fits depends on its selector alone (R62, R66). -/
theorem fits_selPattern (mask value n sel : Byte) :
    (selPattern mask value).fits (packWord n sel) = (sel &&& mask == value) := by
  have hmasked : (sel ++ n) &&& (mask ++ (0 : Byte)) = (sel &&& mask) ++ (0 : Byte) := by
    rw [BitVec.and_append]
    exact congrArg _ BitVec.and_zero
  rw [Bool.eq_iff_iff]
  simp only [Pattern.fits, selPattern, packWord_eq_append, hmasked, beq_iff_eq]
  exact BitVec.append_left_inj _

theorem fits_driveAPattern (n sel : Byte) : driveAPattern.fits (packWord n sel) = (sel == 1) := by
  have hmask : sel &&& 0xFF = sel := BitVec.and_allOnes
  have hfits := fits_selPattern 0xFF 0x01 n sel
  rwa [hmask] at hfits

theorem fits_driveBPattern (n sel : Byte) : driveBPattern.fits (packWord n sel) = true := by
  have hmask : sel &&& 0 = 0 := BitVec.and_zero
  have hfits := fits_selPattern 0 0 n sel
  rwa [hmask] at hfits

/-- Priority makes the pair of rows a test of the selector for 1 (R66, R73). -/
theorem selectRow_packWord (n sel : Byte) :
    selectRow (packWord n sel) = some (if sel = 1 then "DRIVE_A" else "DRIVE_B") := by
  by_cases h : sel = 1
  · have hA : driveAPattern.fits (packWord n sel) = true := by simp [fits_driveAPattern, h]
    rw [if_pos h]
    simp [selectRow, write2Rows, hA]
  · have hA : driveAPattern.fits (packWord n sel) = false := by simpa [fits_driveAPattern] using h
    rw [if_neg h]
    simp [selectRow, write2Rows, hA, fits_driveBPattern]

theorem mnemonic_decodeBuffer_cons_cons (n sel : Byte) (tail : List Byte) :
    (decodeBuffer (n :: sel :: tail)).mnemonic = if sel = 1 then "DRIVE_A" else "DRIVE_B" := by
  by_cases h : sel = 1
  · rw [h, decodeBuffer_selOne, if_pos rfl]; rfl
  · rw [decodeBuffer_selOther n tail h, if_neg h]; rfl

/-- The masks and values that the eight disjoint patterns put on the selector (R66). -/
def driveBSelTests : List (Byte × Byte) :=
  [(0x01, 0x00), (0x81, 0x81), (0xC1, 0x41), (0xE1, 0x21),
   (0xF1, 0x11), (0xF9, 0x09), (0xFD, 0x05), (0xFF, 0x03)]

theorem driveBDisjointPatterns_eq :
    driveBDisjointPatterns = driveBSelTests.map fun test => selPattern test.1 test.2 := by
  decide

/-- The tests split the selectors other than 1 among them: a finite check of the 256 selectors (R66). -/
theorem countP_driveBSelTests : ∀ sel : Byte,
    driveBSelTests.countP (fun test => sel &&& test.1 == test.2) = if sel = 1 then 0 else 1 := by
  decide

theorem length_filter_driveBDisjointPatterns (n sel : Byte) :
    (driveBDisjointPatterns.filter (·.fits (packWord n sel))).length = if sel = 1 then 0 else 1 := by
  rw [← List.countP_eq_length_filter, driveBDisjointPatterns_eq, List.countP_map,
    ← countP_driveBSelTests sel]
  simp only [Function.comp_def, fits_selPattern]

/-! ## The assembler -/

theorem disassemble_pair (n sel : Byte) : disassemble (.write [n, sel]) =
    if sel = 1 then .driveA n else if sel = 0 then .driveB n else .driveBSel n sel := rfl

theorem disassemble_of_length_ne_two : ∀ {b : Buffer}, b.length ≠ 2 → disassemble (.write b) = .raw b
  | [], _ => rfl
  | [_], _ => rfl
  | [_, _], h => absurd rfl h
  | _ :: _ :: _ :: _, _ => rfl

theorem disassemble_driveBSel {n sel : Byte} (h1 : sel ≠ 1) (h0 : sel ≠ 0) :
    disassemble (.write [n, sel]) = .driveBSel n sel := by
  rw [disassemble_pair, if_neg h1, if_neg h0]

/-- R71 admits `DRIVE_B n, s` for `s ≠ 1`. -/
theorem Line.wf_driveBSel {n sel : Byte} : (Line.driveBSel n sel).wf = true ↔ sel ≠ 1 := by
  simp [Line.wf, Config.dirACode]

/-- What the disassembler prints is a line R71 admits, which denotes the event it was printed for. -/
def PrintsBack (e : Event) : Prop := (disassemble e).wf = true ∧ assemble (disassemble e) = e

theorem printsBack_pair (n sel : Byte) : PrintsBack (.write [n, sel]) := by
  unfold PrintsBack
  by_cases h1 : sel = 1
  · rw [h1]; exact ⟨rfl, rfl⟩
  · by_cases h0 : sel = 0
    · rw [h0]; exact ⟨rfl, rfl⟩
    · rw [disassemble_driveBSel h1 h0]
      exact ⟨Line.wf_driveBSel.mpr h1, rfl⟩

theorem printsBack_of_length_ne_two {b : Buffer} (h : b.length ≠ 2) : PrintsBack (.write b) := by
  unfold PrintsBack
  rw [disassemble_of_length_ne_two h]
  exact ⟨rfl, rfl⟩

theorem printsBack : ∀ e : Event, PrintsBack e
  | .write [n, sel] => printsBack_pair n sel
  | .write [] => printsBack_of_length_ne_two (by simp)
  | .write [_] => printsBack_of_length_ne_two (by simp)
  | .write (_ :: _ :: _ :: _) => printsBack_of_length_ne_two (by simp)
  | .connect => ⟨rfl, rfl⟩
  | .disconnect => ⟨rfl, rfl⟩

/-! ## The words of the opcode table -/

/-! A table word stands for the buffer of its bytes, low byte first (R62; log 13). -/

theorem decodeTableWord_sixteen (w : Nat) :
    decodeTableWord 16 w = some (decodeBuffer [BitVec.ofNat 8 w, BitVec.ofNat 8 (w / 256)]) := rfl

theorem decodeTableWord_eight (w : Nat) :
    decodeTableWord 8 w = some (.malformedLen1 (BitVec.ofNat 8 w)) := rfl

theorem decodeTableWord_zero (w : Nat) : decodeTableWord 0 w = some .malformedLen0 := rfl

/-! ## Which commands are one command -/

theorem Direction.eq_iff (d d' : Direction) : d = d' ↔ (d = .a ↔ d' = .a) := by
  cases d <;> cases d' <;> decide

theorem directionOf_eq_a_iff (sel : Byte) : directionOf sel = .a ↔ sel = 1 := by
  refine ⟨fun hdir => ?_, fun h => by rw [h, directionOf_one]⟩
  by_contra h
  rw [directionOf_other h] at hdir
  cases hdir

/-- The direction is the one bit of information in the selector (R64). -/
theorem directionOf_eq_iff (sel sel' : Byte) :
    directionOf sel = directionOf sel' ↔ (sel = 1 ↔ sel' = 1) := by
  rw [Direction.eq_iff, directionOf_eq_a_iff, directionOf_eq_a_iff]

@[simp] theorem Command.endLevels_zero (d : Direction) : Command.endLevels ⟨0, d⟩ = ⟨0, 0, 0⟩ := by
  cases d <;> rfl

/-- The end triple tells two commands apart, but for the two stops (R70, R96). -/
theorem Command.endLevels_inj (c c' : Command) : c.endLevels = c'.endLevels ↔
    c.intensity = c'.intensity ∧ (c.intensity = 0 ∨ c.dir = c'.dir) := by
  obtain ⟨n, d⟩ := c
  obtain ⟨n', d'⟩ := c'
  cases d <;> cases d'
  case a.a | b.b => simp [Command.endLevels]
  case a.b | b.a => simpa [Command.endLevels] using fun (h : n = n') (h0 : n = 0) => h0.symm.trans h

end Sys2Proof

namespace Sys2Proof.Machine

/-! ## What a buffer decides about its outcome -/

/-- In every state, Idle or not, a buffer of two bytes or more is the write of the command it decodes to: no other
information of the selector and the tail is left (R46, R67, R70). -/
theorem exec_decodeBuffer_cons_cons (n sel : Byte) (tail : List Byte) (s : State) :
    exec (decodeBuffer (n :: sel :: tail)) s =
      handleWrite s (applyCommand ⟨n, directionOf sel⟩ s) := by
  by_cases h : sel = 1
  · rw [h, decodeBuffer_selOne]; rfl
  · rw [decodeBuffer_selOther n tail h, directionOf_other h]; rfl

theorem applyCommand_levels (c : Command) (s : State) : (applyCommand c s).levels = c.endLevels := by
  rw [applyCommand_eq, endLevels_eq]

/-- The triple a completed buffer of two bytes or more leaves (R96). -/
theorem levels_of_exec_cons_cons {n sel : Byte} {tail : List Byte} {s t : State}
    (h : exec (decodeBuffer (n :: sel :: tail)) s = .next t) :
    t.levels = Command.endLevels ⟨n, directionOf sel⟩ := by
  rw [exec_decodeBuffer_cons_cons] at h
  obtain ⟨-, rfl⟩ := handleWrite_next h
  exact applyCommand_levels _ s

theorem raiseMalformed_reports (s : State) :
    (raiseMalformed s).reports = s.reports ++ [.malformedCommand] := by
  simp [State.reports, raiseMalformed_eq, OutEvent.report]

/-- A command writes to the outputs and reports nothing (R97, R121). -/
theorem applyCommand_reports (c : Command) (s : State) : (applyCommand c s).reports = s.reports := by
  simp [State.reports, applyCommand_eq, OutEvent.report]

/-- One report for a buffer too short, none for any other (R120, R121). -/
theorem handle_write_reports (s : State) : ∀ b : Buffer, (handle (.write b) s).reports =
    s.reports ++ if b.length < 2 then [.malformedCommand] else []
  | [] => by rw [handle_write_short (by simp), raiseMalformed_reports, if_pos (by simp)]
  | [v] => by rw [handle_write_short (by simp), raiseMalformed_reports, if_pos (by simp)]
  | n :: sel :: tail => by
    rw [handle_of_command (Event.command_write_cons_cons n sel tail), applyCommand_reports,
      if_neg (by simp), List.append_nil]

/-! ## The statements of the encoding -/

/-- Settles O4: encoding inverts decoding on every event, and decoding inverts encoding by the instruction's row. -/
theorem wireEncodingRoundTrip : Obligations.WireEncodingRoundTrip := by
  refine ⟨decodeEvent_wf, fun i e hwf => ⟨decodeEvent_of_encode hwf, ?_⟩⟩
  rintro rfl
  exact encode_decodeEvent e

/-- Settles O5: a decoded row has the format of its event, which the length gives. -/
theorem lengthSelectsFormat : Obligations.LengthSelectsFormat :=
  ⟨fun b h => (format_decodeEvent (.write b)).trans (formatOfEvent_write2 h),
    fun b h => (format_decodeEvent (.write b)).trans (formatOfEvent_write1 h),
    fun b h => (format_decodeEvent (.write b)).trans (formatOfEvent_write0 h),
    rfl, rfl, encode_eq_none_iff⟩

/-- Settles O7: by the length of the buffer, and from two bytes on by the selector. -/
theorem decoderAgreesWithOpcodeMap : Obligations.DecoderAgreesWithOpcodeMap := by
  intro b
  match b with
  | [] => rfl
  | [v] => rfl
  | n :: sel :: tail =>
    by_cases h : sel = 1
    · rw [h, decodeCommand_cons_cons, decodeBuffer_selOne, directionOf_one]
    · rw [decodeCommand_cons_cons, decodeBuffer_selOther n tail h, directionOf_other h]

/-- Settles O9: both the priority of the rows and the decoder test the selector for 1, and so does the number of
disjoint patterns that fit. -/
theorem opcodeTableSelectsTheRow : Obligations.OpcodeTableSelectsTheRow := by
  refine ⟨fun n sel tail => ?_, fun n => ?_, fun n sel h => ?_⟩
  · rw [selectRow_packWord, mnemonic_decodeBuffer_cons_cons]
  · exact List.length_eq_zero_iff.mp (length_filter_driveBDisjointPatterns n 1)
  · rw [length_filter_driveBDisjointPatterns, if_neg h]

/-- Settles O10: two bytes print by their selector and every other buffer as it stands. -/
theorem assemblerRoundTrip : Obligations.AssemblerRoundTrip :=
  ⟨printsBack, fun _ => rfl, fun _ => rfl,
    fun _ _ hwf h0 => disassemble_driveBSel (Line.wf_driveBSel.mp hwf) h0, disassemble_pair,
    fun _ h => disassemble_of_length_ne_two h, rfl, rfl⟩

/-- Settles O23: every buffer handled in Idle completes with its event's effect, whose reports the length decides. -/
theorem onlyShortBuffersRaise : Obligations.OnlyShortBuffersRaise :=
  fun b s h => ⟨_, exec_decodeBuffer_idle h b, handle_write_reports s b⟩

/-- Settles O24: the outcome is that of the decoded command, so selectors of one direction and all tails collapse;
the end triple tells all other commands apart but the two stops. -/
theorem degenerateEncodings : Obligations.DegenerateEncodings := by
  refine ⟨fun n sel sel' tail tail' s h h' => ?_, fun n tail tail' s => ?_, fun sel tail s h => ?_,
    fun n sel n' sel' s s' t t' ht ht' => ?_⟩
  · rw [exec_decodeBuffer_cons_cons, exec_decodeBuffer_cons_cons, directionOf_other h,
      directionOf_other h']
  · rw [exec_decodeBuffer_cons_cons, exec_decodeBuffer_cons_cons]
  · have hnext := exec_decodeBuffer_idle h (0 :: sel :: tail)
    exact ⟨_, hnext, by rw [levels_of_exec_cons_cons hnext, Command.endLevels_zero]⟩
  · rw [levels_of_exec_cons_cons ht, levels_of_exec_cons_cons ht', Command.endLevels_inj,
      directionOf_eq_iff]

/-- Settles O2: the placed event is the head of the inbox, in Idle. -/
theorem placedWordRunsNext : Obligations.PlacedWordRunsNext := by
  intro nbits w s
  exact step_event (s := s.withFetchWord nbits w) (e := .write (wordBuffer nbits w))
    (rest := s.inbox) rfl rfl

/-- Settles O3: the bytes of each word, and the row they select. -/
theorem encodedWordsDecode : Obligations.EncodedWordsDecode :=
  ⟨decodeTableWord_sixteen _, decodeTableWord_sixteen _, decodeTableWord_sixteen _,
    decodeTableWord_eight _, decodeTableWord_zero _, decodeBuffer_selOne 5 [0], rfl, rfl⟩

/-- Settles O8: the word is its two bytes side by side. -/
theorem packedWordFields : Obligations.PackedWordFields :=
  fun n sel => ⟨wordIntensity_packWord n sel, wordSel_packWord n sel, toNat_packWord n sel⟩

end Sys2Proof.Machine

/-! # The output driver

A driver call completes in every state (R80), so a sequence of calls is a total function of the state, `callAll`: a
fold of the writes. What it records and what it leaves in each register are then inductions over the calls. -/

namespace Sys2Proof.Machine

/-- A register after a write: the level written, or the level it had (R48, R80). -/
theorem Levels.get_set (l : Levels) (c d : Channel) (v : Byte) :
    (l.set d v).get c = if d = c then v else l.get c := by
  split
  next h => rw [h, Levels.get_set_same]
  next h => exact Levels.get_set_other l d c v (Ne.symm h)

/-- The last level of a channel is that of its later calls, else that of the first call (R84). -/
theorem lastLevel_cons (c d : Channel) (v : Byte) (rest : List (Channel × Byte)) :
    lastLevel c ((d, v) :: rest) = (lastLevel c rest).or (if d = c then some v else none) := by
  cases h : lastLevel c rest <;> simp [lastLevel, h]

/-- A recording driver records every call, one of the level already held too (R84, R97). -/
theorem setIntensity_calls (c : Channel) (v : Byte) (s : State) :
    (setIntensity c v s).calls = s.calls ++ [(c, v)] := by
  simp [State.calls, OutEvent.call]

/-- The effect of a sequence of driver calls. -/
def callAll (calls : List (Channel × Byte)) (s : State) : State :=
  calls.foldl (fun t call => setIntensity call.1 call.2 t) s

@[simp] theorem callAll_nil (s : State) : callAll [] s = s := rfl

@[simp] theorem callAll_cons (c : Channel) (v : Byte) (rest : List (Channel × Byte)) (s : State) :
    callAll ((c, v) :: rest) s = callAll rest (setIntensity c v s) := rfl

theorem performCalls_cons (c : Channel) (v : Byte) (rest : List (Channel × Byte)) (s : State) :
    performCalls ((c, v) :: rest) s = performCalls rest (setIntensity c v s) := rfl

/-- No call of a sequence faults, so the sequence completes with the effects of its calls (R80, R84). -/
theorem performCalls_eq (calls : List (Channel × Byte)) (s : State) :
    performCalls calls s = .next (callAll calls s) := by
  induction calls generalizing s with
  | nil => rfl
  | cons call rest ih => rw [performCalls_cons, ih, callAll_cons]

theorem callAll_calls (calls : List (Channel × Byte)) (s : State) :
    (callAll calls s).calls = s.calls ++ calls := by
  induction calls generalizing s with
  | nil => simp
  | cons call rest ih => rw [callAll_cons, ih, setIntensity_calls, List.append_assoc, List.singleton_append]

/-- Each register holds the level of its last call, or its old level (R84). -/
theorem callAll_get (calls : List (Channel × Byte)) (s : State) (c : Channel) :
    (callAll calls s).levels.get c = (lastLevel c calls).getD (s.levels.get c) := by
  induction calls generalizing s with
  | nil => rfl
  | cons call rest ih =>
    obtain ⟨d, v⟩ := call
    rw [callAll_cons, ih, setIntensity_levels, Levels.get_set, lastLevel_cons]
    cases lastLevel c rest with
    | some w => rfl
    | none => by_cases h : d = c <;> simp [h]

/-! ## The statements of the driver -/

/-- Settles O18: a sequence of calls is the fold of its writes, and triples that read alike are equal. -/
theorem driverKeepsOnlyLastLevels : Obligations.DriverKeepsOnlyLastLevels := by
  refine ⟨fun calls s => ⟨_, performCalls_eq calls s, callAll_calls calls s, callAll_get calls s⟩,
    fun calls calls' s t t' hlast ht ht' => ?_⟩
  rw [performCalls_eq] at ht ht'
  cases ht
  cases ht'
  exact Levels.ext_get fun c => by rw [callAll_get, callAll_get, hlast c]

/-- Settles O16: the register rules for the channel written and for the others; the other fields are untouched. -/
theorem setIntensityWritesItsChannel : Obligations.SetIntensityWritesItsChannel := by
  intro c v s
  refine ⟨rfl, _, exec_setIntensity c v s, ?_, fun d hd => ?_, rfl, rfl, rfl, rfl, rfl, rfl⟩
  · rw [setIntensity_levels, Levels.get_set_same]
  · rw [setIntensity_levels, Levels.get_set_other _ _ _ _ hd]

end Sys2Proof.Machine

/-! # The command interpreter

The writes of a command in order, the levels its selector gives the two directions, the last valid command of a run,
and one step as the effect of the event it takes (R90 to R102). -/

namespace Sys2Proof

/-- The match and mask of the `DRIVE_A` row are the test of the selector for 1 (R66, R98, R99). -/
theorem packWord_masked_eq_iff (n sel : Byte) : packWord n sel &&& 0xFF00 = 0x0100 ↔ sel = 1 := by
  have hfits := fits_driveAPattern n sel
  rwa [Bool.eq_iff_iff, Pattern.fits, beq_iff_eq, beq_iff_eq] at hfits

/-- A sequence has no last valid command exactly when none of its events is one (R102). -/
theorem lastCommand_eq_none_iff (es : List Event) :
    lastCommand es = none ↔ ∀ e ∈ es, e.command = none := by
  induction es with
  | nil => simp [lastCommand]
  | cons e es ih => rw [lastCommand_cons, Option.or_eq_none_iff, ih, List.forall_mem_cons, and_comm]

theorem exists_lastCommand {es : List Event} (h : ∃ e ∈ es, e.command ≠ none) :
    ∃ c, lastCommand es = some c := by
  obtain ⟨e, he, hc⟩ := h
  exact Option.ne_none_iff_exists'.mp fun hnone => hc ((lastCommand_eq_none_iff es).mp hnone e he)

theorem lastCommand_twice (e : Event) : lastCommand [e, e] = lastCommand [e] := by
  rw [lastCommand_cons e [e], lastCommand_cons e []]
  exact Option.or_self

end Sys2Proof

namespace Sys2Proof.Machine

/-! ## The writes of a command -/

/-- Step 5 of the algorithm, read from the selector (R93, R95). -/
theorem levelA_directionOf (n sel : Byte) :
    levelA ⟨n, directionOf sel⟩ = if sel = 1 then n else 0 := by
  by_cases h : sel = 1
  · rw [h]; rfl
  · rw [directionOf_other h, if_neg h]; rfl

theorem levelB_directionOf (n sel : Byte) :
    levelB ⟨n, directionOf sel⟩ = if sel = 1 then 0 else n := by
  by_cases h : sel = 1
  · rw [h]; rfl
  · rw [directionOf_other h, if_neg h]; rfl

/-- The three calls of a command do not depend on what the registers hold (R84, R97). -/
theorem applyCommand_calls (c : Command) (s : State) : (applyCommand c s).calls =
    s.calls ++ [(.indicator, c.intensity), (.directionA, levelA c), (.directionB, levelB c)] := by
  simp [State.calls, applyCommand_eq, OutEvent.call]

/-- A report is no driver call (R97, R122). -/
theorem raiseMalformed_calls (s : State) : (raiseMalformed s).calls = s.calls := by
  simp [State.calls, raiseMalformed_eq, OutEvent.call]

/-! ## The transitions of the state machine -/

/-- One internal transition as a whole state, for each of the three writes (R101). -/
theorem step_applying_eq {s : State} {k : Fin 3} (h : s.phase = .applying k) :
    step s = .next
      { setIntensity (writeChannel k) (writeLevel k s.command) s with phase := afterWrite k } := by
  rw [step_applying h, applyNext_applying h]

/-- The internal steps from the latch on are the rest of the command (R90, R101). -/
theorem runSteps_three_latch (c : Command) (s : State) :
    runSteps 3 (latch c s) = .next (applyCommand c s) := runSteps_three_applying_zero rfl

/-- From Idle a step takes the head of the inbox and has its effect (R47, R101). -/
theorem step_inbox_cons {s : State} {e : Event} {rest : List Event} (h : s.phase = .idle)
    (hi : s.inbox = e :: rest) : step s = .next (handle e { s with inbox := rest }) :=
  (step_event h hi).trans (exec_decodeEvent_idle (s := { s with inbox := rest }) h e)

/-! ## The end of a run -/

/-- A run from Idle ends in the triple of its last valid command, or in the one it began with (R102). -/
theorem runEvents_next_levels {s t : State} (h : s.phase = .idle) {es : List Event}
    (ht : runEvents s es = .next t) :
    t.levels = (lastCommand es).elim s.levels Command.endLevels := by
  rw [runEvents_eq h] at ht
  cases ht
  exact handleAll_levels s es

/-! ## The statements of the command interpreter -/

/-- Settles O21: a buffer of two bytes or more is one command, whose direction levels the selector gives. -/
theorem validCommandEndState : Obligations.ValidCommandEndState := by
  intro b s hlen h
  match b, hlen with
  | n :: sel :: tail, _ =>
    have hnext := exec_decodeBuffer_idle h (n :: sel :: tail)
    have hlevels := levels_of_exec_cons_cons hnext
    rw [endLevels_eq, levelA_directionOf, levelB_directionOf] at hlevels
    refine ⟨n, sel, _, rfl, rfl, hnext, ?_, fun hsel => ?_, fun hsel => ?_, handle_phase h _⟩
    · rw [hlevels]
    · rw [hlevels]
      exact ⟨if_pos hsel, if_pos hsel⟩
    · rw [hlevels]
      exact ⟨if_neg hsel, if_neg hsel⟩

/-- Settles O22: a valid buffer's effect is a whole command, a short one's is a report. -/
theorem threeWritesInOrder : Obligations.ThreeWritesInOrder := by
  refine ⟨fun n sel tail s h => ⟨_, exec_decodeBuffer_idle h _, ?_⟩,
    fun b s hlen h => ⟨_, exec_decodeBuffer_idle h b, ?_⟩⟩
  · rw [handle_of_command (Event.command_write_cons_cons n sel tail), applyCommand_calls,
      levelA_directionOf, levelB_directionOf]
  · rw [handle_write_short hlen, raiseMalformed_calls]

/-- Settles O25: from Idle a step is the effect of its event, a valid write's being the latch and the internal steps;
in Applying it is the phase's one write. -/
theorem stateMachineTransitions : Obligations.StateMachineTransitions := by
  refine fun s => ⟨fun b rest h hi hlen => ?malformed, fun n sel tail rest h hi => ?valid,
    fun h => step_applying_eq h, fun h v hv => ?writeA, fun h v hv => ?writeB,
    fun rest h hi => step_inbox_cons h hi, fun rest h hi => step_inbox_cons h hi⟩
  case malformed => rw [step_inbox_cons h hi, handle_write_short hlen, raiseMalformed_eq]
  case valid =>
    rw [step_inbox_cons h hi, handle_of_command (Event.command_write_cons_cons n sel tail)]
    exact (runSteps_three_latch ⟨n, directionOf sel⟩ { s with inbox := rest }).symm
  case writeA =>
    have hlevel : v = levelA s.command := by rw [hv, levelA_eq_ite]; rfl
    rw [hlevel]
    exact step_applying_eq h
  case writeB =>
    have hlevel : v = levelB s.command := by rw [hv, levelB_eq_ite]; rfl
    rw [hlevel]
    exact step_applying_eq h

/-- Settles O33: a run is the fold of its events' effects, whose triple the last valid command decides; a buffer
delivered twice has the same last command as once. -/
theorem lastValidCommandDecidesLevels : Obligations.LastValidCommandDecidesLevels := by
  refine ⟨fun es s h => ⟨_, runEvents_eq h es, ?_⟩,
    fun b s h => ⟨_, _, runEvents_eq h _, runEvents_eq h _, ?_⟩⟩
  · rw [withInbox_levels, handleAll_levels]
    cases lastCommand es <;> rfl
  · rw [withInbox_levels, withInbox_levels, handleAll_levels, handleAll_levels, lastCommand_twice]

/-- Settles O34: both runs end in the triple of their last valid command, which is one and the same. -/
theorem endLevelsForgetTheStart : Obligations.EndLevelsForgetTheStart := by
  intro es s s' t t' h h' hcommand ht ht'
  obtain ⟨c, hc⟩ := exists_lastCommand hcommand
  calc t.levels = c.endLevels := by rw [runEvents_next_levels h ht, hc, Option.elim_some]
    _ = t'.levels := by rw [runEvents_next_levels h' ht', hc, Option.elim_some]

/-- Settles O6: the length test comes first, then the selector's. -/
theorem decoderResult : Obligations.DecoderResult := by
  refine ⟨fun b h => decodeCommand_short h, fun n tail => ?_, fun n sel tail h => ?_⟩
  · rw [decodeCommand_cons_cons, directionOf_one]
  · rw [decodeCommand_cons_cons, directionOf_other h]

/-- Settles O11: the row is a whole command in direction A. -/
theorem driveADrivesDirectionA : Obligations.DriveADrivesDirectionA := by
  intro n tail s h
  refine ⟨rfl, (packWord_masked_eq_iff n 1).mpr rfl, _, exec_driveA_idle h n tail, ?_⟩
  rw [applyCommand_eq]
  exact ⟨rfl, rfl, rfl, rfl, rfl⟩

/-- Settles O12: the row is a whole command in direction B, and its selector is not that of `DRIVE_A`. -/
theorem driveBDrivesDirectionB : Obligations.DriveBDrivesDirectionB := by
  intro n sel tail s hsel h
  refine ⟨rfl, fun hword => hsel ((packWord_masked_eq_iff n sel).mp hword), _,
    exec_driveB_idle h n sel tail, ?_⟩
  rw [applyCommand_eq]
  exact ⟨rfl, rfl, rfl, rfl, rfl⟩

end Sys2Proof.Machine

/-! # The link events

A link event has no effect, so the fold of a run's effects is that of its writes alone; and once the inbox is empty
further steps hold the state (R110 to R112, R136). -/

namespace Sys2Proof.Machine

/-! ## The instructions of the link events, in every state -/

/-- R110; outside Idle by log 8. -/
theorem exec_connect (s : State) : exec .connect s = .next s := rfl

/-- R111; outside Idle by log 8. -/
theorem exec_disconnect (s : State) : exec .disconnect s = .next s := rfl

/-! ## Runs without their link events -/

/-- An event that is no write has no effect (R110, R111). -/
theorem handle_of_not_isWrite {e : Event} (h : ¬ e.isWrite) (s : State) : handle e s = s := by
  cases e with
  | write b => exact absurd rfl h
  | connect => rfl
  | disconnect => rfl

/-- The writes of a sequence have the effect of the whole sequence, in every state (R112). -/
theorem handleAll_filter_isWrite (s : State) (es : List Event) :
    handleAll s (es.filter Event.isWrite) = handleAll s es := by
  induction es generalizing s with
  | nil => rfl
  | cons e es ih =>
    by_cases h : e.isWrite
    · rw [List.filter_cons_of_pos h, handleAll_cons, handleAll_cons, ih]
    · rw [List.filter_cons_of_neg h, handleAll_cons, handle_of_not_isWrite h, ih]

theorem handleAll_replicate_disconnect (s : State) (m : Nat) :
    handleAll s (List.replicate m .disconnect) = s := by
  have hnone : (List.replicate m Event.disconnect).filter Event.isWrite = [] :=
    List.filter_replicate_of_neg (by decide)
  rw [← handleAll_filter_isWrite, hnone, handleAll_nil]

/-! ## Steps past the last event -/

/-- With nothing to deliver, now or later, Idle holds the state for any number of steps (R136; log 3). -/
theorem runSteps_nothing {s : State} (h : s.phase = .idle) (hi : s.inbox = []) (hl : s.later = none)
    (n : Nat) : runSteps n s = .next s := by
  induction n with
  | zero => rfl
  | succ n ih => rw [runSteps_succ_of_next n (step_nothing h hi hl), ih]

/-- A finite run does not change after its last event, however many steps follow (R13, R136; log 3). -/
theorem runSteps_length_add {s : State} (h : s.phase = .idle) (es : List Event) (n : Nat) :
    runSteps (es.length + n) (s.withInbox es) = .next ((handleAll s es).withInbox []) := by
  induction es generalizing s with
  | nil => exact runSteps_nothing (s := s.withInbox []) h rfl rfl _
  | cons e es ih =>
    rw [List.length_cons, Nat.succ_add, runSteps_succ_of_next _ (step_withInbox_cons h e es),
      ih (handle_phase h e), handleAll_cons]

/-! ## The statements of the link events -/

/-- Settles O35: both runs are folds of their events' effects, and the link events have none. -/
theorem linkDropsChangeNoRun : Obligations.LinkDropsChangeNoRun := by
  intro es s h
  refine ⟨_, runEvents_eq h es, ?_⟩
  rw [runEvents_eq h, handleAll_filter_isWrite]

/-- Settles O37: the `m` disconnects have no effect, and the `n` steps after them hold the state. -/
theorem disconnectNeverStopsTheMotor : Obligations.DisconnectNeverStopsTheMotor := by
  intro m n s h
  have hrun := runSteps_length_add h (List.replicate m .disconnect) n
  rwa [List.length_replicate, handleAll_replicate_disconnect] at hrun

/-- Settles O15: neither row has a statement that reads or writes the state. -/
theorem linkEventsChangeNothing : Obligations.LinkEventsChangeNothing :=
  fun s => ⟨exec_connect s, exec_disconnect s⟩

end Sys2Proof.Machine

/-! # The one exception, and what no run can do

A malformed write is one report and no other effect, so a run of them is a block of reports in the outputs. Nothing is
fatal: every step answers next, and from Idle it ends in Idle with at most the head of the inbox gone (R120 to R125,
R132, R136). -/

namespace Sys2Proof.Machine

/-! ## Malformed writes -/

/-- The state with `n` more reports of the one exception in the outputs (R122, R123). -/
def State.withMalformedReports (s : State) (n : Nat) : State :=
  { s with out := s.out ++ List.replicate n (.reported .malformedCommand) }

@[simp] theorem withMalformedReports_levels (s : State) (n : Nat) :
    (s.withMalformedReports n).levels = s.levels := rfl

@[simp] theorem withMalformedReports_zero (s : State) : s.withMalformedReports 0 = s := by
  simp [State.withMalformedReports]

theorem withMalformedReports_raiseMalformed (s : State) (n : Nat) :
    (raiseMalformed s).withMalformedReports n = s.withMalformedReports (n + 1) := by
  simp [State.withMalformedReports, raiseMalformed_eq, List.replicate_succ]

/-- Reports are no driver calls (R97, R122). -/
theorem withMalformedReports_calls (s : State) (n : Nat) :
    (s.withMalformedReports n).calls = s.calls := by
  induction n generalizing s with
  | zero => rw [withMalformedReports_zero]
  | succ n ih => rw [← withMalformedReports_raiseMalformed, ih, raiseMalformed_calls]

/-- A run of malformed writes is one report each and nothing else, in every state (R122, R123). -/
theorem handleAll_map_write_short (s : State) {bs : List Buffer} (hbs : ∀ b ∈ bs, b.length < 2) :
    handleAll s (bs.map .write) = s.withMalformedReports bs.length := by
  induction bs generalizing s with
  | nil => rw [List.map_nil, handleAll_nil, List.length_nil, withMalformedReports_zero]
  | cons b bs ih =>
    obtain ⟨hb, hrest⟩ := List.forall_mem_cons.mp hbs
    rw [List.map_cons, handleAll_cons, handle_write_short hb, ih _ hrest,
      withMalformedReports_raiseMalformed, List.length_cons]

/-- The calls an event adds do not depend on the state it meets (R97). -/
theorem handle_calls_congr {s u : State} (h : s.calls = u.calls) (e : Event) :
    (handle e s).calls = (handle e u).calls := by
  cases hc : e.command with
  | some c =>
    rw [handle_of_command hc, handle_of_command hc, applyCommand_calls, applyCommand_calls, h]
  | none =>
    simp only [handle, hc]
    split
    · rw [raiseMalformed_calls, raiseMalformed_calls, h]
    · exact h

@[simp] theorem withInbox_calls (s : State) (es : List Event) : (s.withInbox es).calls = s.calls := rfl

/-! ## Every step goes on -/

/-- An event's handling takes none of the others (R30, R47). -/
theorem handle_inbox (e : Event) (s : State) : (handle e s).inbox = s.inbox := by
  have hframe := congrArg State.inbox (handle_withPending e s s.inbox s.later)
  exact hframe

/-- From Idle a step ends in Idle, with the head of the inbox, if any, delivered (R47, R101, R125; log 2, log 3). -/
theorem step_idle_completes {s : State} (h : s.phase = .idle) :
    ∃ t, step s = .next t ∧ t.phase = .idle ∧ t.inbox = s.inbox.tail := by
  cases hi : s.inbox with
  | cons e rest =>
    exact ⟨_, step_inbox_cons h hi, handle_phase (s := { s with inbox := rest }) h e, handle_inbox e _⟩
  | nil =>
    cases hl : s.later with
    | none => exact ⟨s, step_nothing h hi hl, h, hi⟩
    | some k =>
      have hidle : { s with later := some (k + 1) }.phase = .idle := h
      exact ⟨_, (step_arrival h hi hl).trans (exec_decodeEvent_idle hidle _), handle_phase hidle _,
        (handle_inbox _ _).trans hi⟩

/-- No state makes a step stop, inside a command or out of it (R101, R125). -/
theorem step_completes (s : State) : ∃ t, step s = .next t := by
  cases h : s.phase with
  | applying k => exact ⟨_, step_applying h⟩
  | idle =>
    obtain ⟨t, ht, -⟩ := step_idle_completes h
    exact ⟨t, ht⟩

theorem runSteps_completes (n : Nat) (s : State) : ∃ t, runSteps n s = .next t := by
  induction n generalizing s with
  | zero => exact ⟨s, runSteps_zero s⟩
  | succ n ih =>
    obtain ⟨u, hu⟩ := step_completes s
    rw [runSteps_succ_of_next n hu]
    exact ih u

/-- From Idle `n` steps end in Idle, with the first `n` events of the inbox delivered (R47, R101). -/
theorem runSteps_idle_phase_inbox {n : Nat} {s t : State} (h : s.phase = .idle)
    (hrun : runSteps n s = .next t) : t.phase = .idle ∧ t.inbox = s.inbox.drop n := by
  induction n generalizing s with
  | zero =>
    cases hrun
    exact ⟨h, rfl⟩
  | succ n ih =>
    obtain ⟨u, hu, hphase, hinbox⟩ := step_idle_completes h
    rw [runSteps_succ_of_next n hu] at hrun
    rw [← List.drop_tail, ← hinbox]
    exact ih hphase hrun

/-- The end triple of a command, read from the selector (R93, R96). -/
theorem endLevels_directionOf (n sel : Byte) :
    Command.endLevels ⟨n, directionOf sel⟩ = if sel = 1 then ⟨n, n, 0⟩ else ⟨n, 0, n⟩ := by
  rw [endLevels_eq, levelA_directionOf, levelB_directionOf]
  by_cases h : sel = 1
  · simp only [if_pos h]
  · simp only [if_neg h]

/-! ## The statements of the exception -/

/-- Settles O27: every step completes; from Idle it delivers the head of the inbox; and the last event of a run decides
the triple when it is a valid command. -/
theorem nothingIsFatal : Obligations.NothingIsFatal := by
  refine ⟨runSteps_completes, fun n s t h hrun => runSteps_idle_phase_inbox h hrun,
    fun es n sel tail s h => ⟨_, runEvents_eq h _, ?_⟩⟩
  rw [withInbox_levels, handleAll_concat, handle_levels, Event.command_write_cons_cons,
    Option.elim_some, endLevels_directionOf]

/-- Settles O28: each of the steps has nothing to deliver. -/
theorem idleHoldsItsState : Obligations.IdleHoldsItsState :=
  fun n _ h hi hl => runSteps_nothing h hi hl n

/-- Settles O36: the malformed writes are a block of reports, which the levels and the calls do not show. -/
theorem malformedWritesInARow : Obligations.MalformedWritesInARow := by
  refine fun bs s h hbs =>
    ⟨?reports, fun b => ⟨_, _, runEvents_eq h _, runEvents_eq h _, ?levels, ?calls⟩⟩
  case reports =>
    rw [runEvents_eq h, handleAll_map_write_short s hbs]
    rfl
  case levels =>
    rw [withInbox_levels, withInbox_levels, handleAll_concat, handleAll_map_write_short s hbs,
      handleAll_cons, handleAll_nil, handle_levels, handle_levels, withMalformedReports_levels]
  case calls =>
    rw [withInbox_calls, withInbox_calls, handleAll_concat, handleAll_map_write_short s hbs]
    exact handle_calls_congr (withMalformedReports_calls s bs.length) _

/-- Settles O14: both malformed rows complete in Idle, and their whole effect is the one exception's report. -/
theorem malformedCommandIsReportedOnly : Obligations.MalformedCommandIsReportedOnly := by
  refine ⟨fun v s h => ?_, fun s h => ?_⟩
  · rw [exec_malformedLen1_idle h, raiseMalformed_eq]
  · rw [exec_malformedLen0_idle h, raiseMalformed_eq]

end Sys2Proof.Machine

/-! # The hazards

The triples a command passes through, and when both directions are energized in one of them: only in the window of a
reversal from B to A, which the sender's discipline excludes (R146, R147); and a write outside Idle (R148). -/

namespace Sys2Proof.Machine

/-! ## Both directions energized -/

theorem Levels.overlap_eq_true_iff (l : Levels) : l.overlap = true ↔ l.dirA ≠ 0 ∧ l.dirB ≠ 0 := by
  simp [Levels.overlap]

theorem Levels.overlap_eq_false_iff (l : Levels) : l.overlap = false ↔ l.dirA = 0 ∨ l.dirB = 0 := by
  simp [Levels.overlap, or_iff_not_imp_left]

theorem Levels.Quiescent.overlap {l : Levels} (h : l.Quiescent) : l.overlap = false := by
  rw [Levels.overlap_eq_false_iff]
  obtain ⟨-, hB⟩ | ⟨hA, -⟩ := h
  · exact .inr hB
  · exact .inl hA

theorem endLevels_overlap (c : Command) : c.endLevels.overlap = false := (endLevels_quiescent c).overlap

/-! ## The triples of a command -/

/-- The triples a command passes through, from the triple `l` on (R97, R146). -/
def commandTriples (c : Command) (l : Levels) : List Levels :=
  [⟨c.intensity, l.dirA, l.dirB⟩, ⟨c.intensity, levelA c, l.dirB⟩, c.endLevels]

theorem applyCommand_triples (c : Command) (s : State) :
    (applyCommand c s).triples = s.triples ++ commandTriples c s.levels := by
  simp [State.triples, applyCommand_eq, OutEvent.triple, commandTriples, endLevels_eq]

/-- A report puts no triple on the outputs (R122, R123). -/
theorem raiseMalformed_triples (s : State) : (raiseMalformed s).triples = s.triples := by
  simp [State.triples, raiseMalformed_eq, OutEvent.triple]

/-- Over the triple `l` the command does not energize Direction A while Direction B is energized: the sender's
discipline for one command (R147). -/
def Levels.Allows (l : Levels) (c : Command) : Prop := levelA c = 0 ∨ l.dirB = 0

theorem Levels.allows_driveB (l : Levels) (n : Byte) : l.Allows ⟨n, .b⟩ := .inl rfl

/-- Of the three triples the first has the directions of before and the third is quiescent, so only the second can
have both directions energized, and the discipline excludes that (R146, R147). -/
theorem commandTriples_overlap {c : Command} {l : Levels} (h : l.overlap = false)
    (hallows : l.Allows c) : ∀ m ∈ commandTriples c l, m.overlap = false := by
  have hfirst : Levels.overlap ⟨c.intensity, l.dirA, l.dirB⟩ = false := h
  have hsecond : Levels.overlap ⟨c.intensity, levelA c, l.dirB⟩ = false :=
    (Levels.overlap_eq_false_iff _).mpr hallows
  simp [commandTriples, hfirst, hsecond, endLevels_overlap c]

/-! ## A disciplined run -/

/-- The discipline of a command's row: a zero intensity and Direction B energize no Direction A (R95, R147). -/
theorem Levels.allows_iff (l : Levels) (c : Command) : l.Allows c ↔
    (c.dir != .a || c.intensity == 0 || l.dirB == 0) = true := by
  rcases c with ⟨n, _ | _⟩ <;> simp [Levels.Allows, levelA]

/-- A disciplined sequence begins with an event that is no command or an allowed one, and goes on disciplined from the
triple that event leaves (R147). -/
theorem disciplined_cons (l : Levels) (e : Event) (es : List Event) : Disciplined l (e :: es) = true ↔
    (∀ c, e.command = some c → l.Allows c) ∧
      Disciplined (e.command.elim l Command.endLevels) es = true := by
  cases hc : e.command with
  | none => simp [Disciplined, hc]
  | some c => simp [Disciplined, hc, Levels.allows_iff]

/-- `t` has the triples of `s`, and after them only triples with at most one direction energized. -/
def AddsNoOverlap (s t : State) : Prop :=
  ∃ new, t.triples = s.triples ++ new ∧ ∀ l ∈ new, l.overlap = false

theorem addsNoOverlap_of_triples_eq {s t : State} (h : t.triples = s.triples) : AddsNoOverlap s t :=
  ⟨[], by rw [h, List.append_nil], by simp⟩

theorem AddsNoOverlap.trans {s t u : State} (hst : AddsNoOverlap s t) (htu : AddsNoOverlap t u) :
    AddsNoOverlap s u := by
  obtain ⟨new, htriples, hnew⟩ := hst
  obtain ⟨new', htriples', hnew'⟩ := htu
  refine ⟨new ++ new', ?_, List.forall_mem_append.mpr ⟨hnew, hnew'⟩⟩
  rw [htriples', htriples, List.append_assoc]

/-- An event adds the triples of the command it carries, and none without a command (R97, R110, R111, R122). -/
theorem handle_addsNoOverlap {e : Event} {s : State} (h : s.levels.overlap = false)
    (hallows : ∀ c, e.command = some c → s.levels.Allows c) : AddsNoOverlap s (handle e s) := by
  cases hc : e.command with
  | some c =>
    rw [handle_of_command hc]
    exact ⟨_, applyCommand_triples c s, commandTriples_overlap h (hallows c hc)⟩
  | none =>
    simp only [handle, hc]
    split
    · exact addsNoOverlap_of_triples_eq (raiseMalformed_triples s)
    · exact addsNoOverlap_of_triples_eq rfl

/-- Between the events no overlap arises, with or without the discipline (R34, R96). -/
theorem handleAll_overlap {s : State} (h : s.levels.overlap = false) (es : List Event) :
    (handleAll s es).levels.overlap = false := by
  rw [handleAll_levels]
  cases lastCommand es with
  | none => exact h
  | some c => exact endLevels_overlap c

theorem handleAll_addsNoOverlap {es : List Event} {s : State} (h : s.levels.overlap = false)
    (hd : Disciplined s.levels es = true) : AddsNoOverlap s (handleAll s es) := by
  induction es generalizing s with
  | nil => exact addsNoOverlap_of_triples_eq rfl
  | cons e es ih =>
    obtain ⟨hallows, hrest⟩ := (disciplined_cons _ _ _).mp hd
    rw [← handle_levels] at hrest
    exact (handle_addsNoOverlap h hallows).trans (ih (handleAll_overlap h [e]) hrest)

/-! ## The statements of the hazards -/

/-- Settles O38: both rows pass through the triples of their command; of those of `DRIVE_A` the second alone can have
both directions energized, and `DRIVE_B` is allowed over every triple. -/
theorem overlapExactlyOnReversalToA : Obligations.OverlapExactlyOnReversalToA := by
  intro n sel tail s h _ hone
  have hstart : s.levels.overlap = false := (Levels.overlap_eq_false_iff _).mpr hone
  refine ⟨⟨_, exec_driveA_idle h n tail, applyCommand_triples _ s, hstart,
      Levels.overlap_eq_true_iff _, endLevels_overlap ⟨n, .a⟩⟩,
    ⟨_, exec_driveB_idle h n sel tail, applyCommand_triples _ s, ?_⟩⟩
  exact commandTriples_overlap hstart (s.levels.allows_driveB n)

/-- Settles O39: a run is the fold of its events' effects, each of which is allowed where it is handled. -/
theorem disciplinedSenderNeverOverlaps : Obligations.DisciplinedSenderNeverOverlaps := by
  intro es s h hstart hd
  obtain ⟨new, htriples, hnew⟩ := handleAll_addsNoOverlap hstart hd
  exact ⟨_, new, runEvents_eq h es, htriples, hnew, handleAll_overlap hstart es⟩

/-- Refutes O40: `DRIVE_B 90` and then `DRIVE_A 90` pass through `(90, 90, 90)` (R146). -/
theorem not_noRunEverOverlaps : ¬ Obligations.NoRunEverOverlaps := by
  intro h
  have hfalse : Levels.overlap ⟨90, 90, 90⟩ = false :=
    h [.write [90, 0], .write [90, 1]] _ (runEvents_eq rfl _) ⟨90, 90, 90⟩ (by decide)
  exact absurd hfalse (by decide)

/-- Settles O20: each of the four rows is a write, whose guard is Idle. -/
theorem overlappingWriteStops : Obligations.OverlappingWriteStops :=
  fun _ _ _ _ _ h => ⟨handleWrite_applying h, handleWrite_applying h, handleWrite_applying h,
    handleWrite_applying h⟩

end Sys2Proof.Machine
